-- ==== Sys2Proof/Word.lean ====
section
/-! DEFINITION. The word types of the AQB (30_encoding.md R80, R83; 00_scope.md R8).
No value of the AQB is signed and none is sign-extended (R8, R185). -/

namespace Sys2Proof

/-- A request word, a response word, a status value: 32 bits (R64, R80). -/
abbrev Word := BitVec 32

/-- One byte of a frame, of the line buffer or of the inbound stream. -/
abbrev Byte := BitVec 8

/-- The sample port, SAMPLE_W = 16 bits, fixed (R6). -/
abbrev Sample := BitVec 16

/-- A frame length, 7 bits (R30, R36, R83). -/
abbrev FrameLen := BitVec 7

end Sys2Proof
end

