-- ==== Sys2Proof/Machine/Memory.lean ====
section
/-! DEFINITION. The byte arrays of the AQB (20_memory.md R60) as lists of cells in one canonical form:
indexes strictly rising, no cell that holds what an unlisted index reads as. -/

namespace Sys2Proof.Machine

/-- An array of `n`-bit values, sparse, by index. -/
abbrev Cells (n : Nat) := List (Nat × BitVec n)

/-- An array of bytes: a list of `Host.Cell`. -/
abbrev Memory := List Host.Cell

/-- What an index nothing has written reads as. DESIGN CHOICE (log 4): the arrays are unspecified at reset
(R30, R35, R43). Unsafe for a claim that rests on it. -/
def unwritten (n : Nat) : BitVec n := 0#n

/-- Read one value. -/
def Cells.read {n : Nat} : Cells n → Nat → BitVec n
  | [], _ => unwritten n
  | (k, v) :: rest, a => if k = a then v else Cells.read rest a

/-- Put one cell in front, unless it holds what an unlisted index reads as. -/
def Cells.cons {n : Nat} (a : Nat) (b : BitVec n) (rest : Cells n) : Cells n :=
  if b = unwritten n then rest else (a, b) :: rest

/-- Write one value, keeping the canonical form. -/
def Cells.write {n : Nat} : Cells n → Nat → BitVec n → Cells n
  | [], a, b => Cells.cons a b []
  | (k, v) :: rest, a, b =>
    if a < k then Cells.cons a b ((k, v) :: rest)
    else if a = k then Cells.cons a b rest
    else (k, v) :: Cells.write rest a b

/-- `MemRead(arr, i, n)` (R10): `count` consecutive values from index `i`, index `i` first. -/
def Cells.readN {n : Nat} (m : Cells n) (i count : Nat) : List (BitVec n) :=
  (List.range count).map fun j => Cells.read m (i + j)

/-- `MemWrite(arr, i, n, bytes)` (R10). -/
def Cells.writeN {n : Nat} : Cells n → Nat → List (BitVec n) → Cells n
  | m, _, [] => m
  | m, i, b :: bs => Cells.writeN (Cells.write m i b) (i + 1) bs

/-- The canonical form. -/
abbrev Cells.wf {n : Nat} (m : Cells n) : Prop :=
  m.Pairwise (fun a b => a.1 < b.1) ∧ ∀ c ∈ m, c.2 ≠ unwritten n

/-- Every listed index is an index of an array of `size` values. -/
abbrev Cells.within {n : Nat} (m : Cells n) (size : Nat) : Prop :=
  ∀ c ∈ m, c.1 < size

/-- The canonical form, for byte arrays. -/
abbrev Memory.wf (m : Memory) : Prop := Cells.wf (n := 8) m

end Sys2Proof.Machine
end

