-- ==== Sys2Proof/Config.lean ====
section
/-! DEFINITION. The implementation parameters (00_scope.md R6), their constraints, and the one value the
spec does not state. -/

namespace Sys2Proof

/-- The parameters of R6. `SAMPLE_W` and `ENC_BITS` are fixed by R6 and stand in the types. `S` is derived. -/
structure Params where
  /-- `C`: bytes in a sealed frame, terminator included. -/
  frameCap : Nat
  /-- `N`: frame slots in the ring. -/
  ringSlots : Nat
  /-- `W`: width in bits of each ring cursor. -/
  cursorW : Nat
  /-- `LINE_CAP`: characters the command line buffer holds. -/
  lineCap : Nat
  /-- `RATE_MIN`: lowest accepted rate. -/
  rateMin : Nat
  /-- `RATE_MAX`: highest accepted rate. -/
  rateMax : Nat
  /-- `BAND_LO`: a sample below this is out of band. -/
  bandLo : Nat
  /-- `BAND_HI`: a sample above this is out of band. -/
  bandHi : Nat
  /-- `ALPHABET`: the 64 symbol bytes. -/
  alphabet : List Byte
  /-- `TERM`: the frame terminator. -/
  term : Byte
  /-- `RX_CHUNK_MAX`: largest inbound chunk; a duty of the transport that no step reads (R167). -/
  rxChunkMax : Nat
  /-- `TIMER_CLK_HZ`: OPEN (D13). -/
  timerClkHz : Nat
  /-- `RESET_RATE`: OPEN (D19). -/
  resetRate : Nat
deriving DecidableEq, Repr

/-- `S`, samples per frame (R6). -/
def Params.samplesPerFrame (p : Params) : Nat := (p.frameCap - 1) / 2

/-- No byte of the list occurs twice, nor among those whose bits are set in `seen`. Equal to `List.Nodup`
(`noRepeats_iff_nodup` in Laws/Config.lean), in one pass. -/
def noRepeats (seen : Nat) : List Byte → Bool
  | [] => true
  | b :: bs => !seen.testBit b.toNat && noRepeats (seen ||| 1 <<< b.toNat) bs

/-- The constraints of R6, one conjunct each, in the table's order. A set that breaks one is `BadConfig`
(R203). -/
abbrev Params.Ok (p : Params) : Prop :=
  (p.frameCap % 2 = 1 ∧ 3 ≤ p.frameCap ∧ p.frameCap ≤ 127) ∧
  (2 ^ Nat.log2 p.ringSlots = p.ringSlots ∧ 1 ≤ p.ringSlots ∧ p.ringSlots ≤ 2 ^ (p.cursorW - 1)) ∧
  2 ≤ p.cursorW ∧
  (1 ≤ p.lineCap ∧ p.lineCap ≤ 63) ∧
  (1 ≤ p.rateMin ∧ p.rateMin ≤ p.rateMax) ∧
  p.rateMax ≤ 65535 ∧
  p.bandLo ≤ p.bandHi ∧
  p.bandHi ≤ 65535 ∧
  (p.alphabet.length = 64 ∧ noRepeats 0 p.alphabet = true ∧ 0x0A#8 ∉ p.alphabet) ∧
  p.term ∉ p.alphabet ∧
  1 ≤ p.rxChunkMax ∧
  (p.rateMax ≤ p.timerClkHz ∧ p.timerClkHz < 2 ^ 32) ∧
  (p.rateMin ≤ p.resetRate ∧ p.resetRate ≤ p.rateMax)

namespace Config

/-- `count` consecutive byte values from `first`. -/
def byteRange (first count : Nat) : List Byte :=
  (List.range count).map fun i => BitVec.ofNat 8 (first + i)

/-- The default ALPHABET: the table of R120 (RFC 4648 order). PRESUMED by the spec itself (G1), log 3.
Unsafe for a claim about concrete frame bytes. -/
def base64 : List Byte :=
  byteRange 0x41 26 ++ byteRange 0x61 26 ++ byteRange 0x30 10 ++ [0x2B#8, 0x2F#8]

/-- The parameter set of `State.reset`: the defaults of R6, and for the two OPEN parameters the set P48k of
95_test_vectors.md. DESIGN CHOICE (log 2): R6 leaves TIMER_CLK_HZ and RESET_RATE open. Unsafe for a
claim that rests on their values; statements quantify over `Params` instead. -/
def params : Params where
  frameCap := 63
  ringSlots := 32
  cursorW := 32
  lineCap := 32
  rateMin := 1000
  rateMax := 48000
  bandLo := 100
  bandHi := 4000
  alphabet := base64
  term := 0x0A#8
  rxChunkMax := 64
  timerClkHz := 48000
  resetRate := 48000

/-- Free value (log 12): the 32-bit COUNT of a readable count that 32 bits cannot hold. R182 states none. It
can only arise with 2^32 or more ring slots. DESIGN CHOICE: left free; safe. -/
opaque wideCount : Nat → Word

end Config

end Sys2Proof
end

