-- ==== Sys2Proof/Machine/Period.lean ====
section
/-! DEFINITION. The timer reload value of a rate (42_timer_acquisition.md R140). -/

namespace Sys2Proof.Machine

/-- `reloadOf(n) = (TIMER_CLK_HZ div n) − 1` (R140), as a natural number. -/
def reloadNat (p : Params) (rate : Nat) : Nat := p.timerClkHz / rate - 1

/-- `reloadOf(n)` as the 32-bit register value: within R6 it fits 32 bits (R140). -/
def reloadOf (p : Params) (rate : Nat) : Word := BitVec.ofNat 32 (reloadNat p rate)

end Sys2Proof.Machine
end

