-- ==== Sys2Proof/Machine/State.lean ====
section
/-! DEFINITION. The state of the AQB (10_state.md R30-R47), its outputs, and its reset value
(70_reset_and_hazards.md R220). -/

namespace Sys2Proof.Machine

/-- The response codes (30_encoding.md R88). -/
inductive RespCode where
  | ok
  | empty
  | frame
  | value
  | errNotPending
  | errIllegal
deriving DecidableEq, Repr

/-- A response (R88): value 0 and no data unless stated. -/
structure Response where
  code : RespCode
  value : Word := 0#32
  data : List Byte := []
deriving DecidableEq, Repr

/-- The output events (R47). -/
inductive Event where
  /-- Re-arm the converter, once per completed ACQ. -/
  | adcStart
  /-- Re-arm the inbound transport, once per RXDONE. -/
  | rxRearm
  /-- Frame number `k` entered the ring, once per RB_WRITE. -/
  | sealed (k : Nat)
deriving DecidableEq, Repr

/-- What the environment presents to the block, one item a step (log 5). RB_WRITE and ENC are not among it:
only the ACQ step issues them (R85, R211). -/
inductive Input where
  /-- A word on the request interface (R80, R84). -/
  | request (word : Word)
  /-- The reset input (R220; log 14). -/
  | reset
deriving DecidableEq, Repr

/-- The model faults (60_exceptions.md R203): states the rules forbid. All are safe: the model stops where
the spec gives no meaning. None is reached from reset by bus requests. -/
inductive Fault where
  /-- RB_WRITE with `len > C` (R100, R203); raised by RB_WRITE. Safe. -/
  | badFrameLength (len : FrameLen)
  /-- ENC with `flen` odd or above `C − 3` (R122, R203); raised by ENC and ACQ. Safe. -/
  | encoderState (flen : FrameLen)
  /-- A parameter set that breaks R6 (R203); raised by every step and meaning. Safe. -/
  | badConfig
  /-- A value stored into a register too narrow for it (R9); raised by TICK alone (log 10). Safe. -/
  | registerRange (value : Nat)
  /-- A byte outside its array (R60); raised by POP and RXB (log 11). Safe. -/
  | noSuchByte (index : Nat)
deriving DecidableEq, Repr

/-- Where the spec gives no meaning at all: nowhere in this block. -/
inductive Refusal where
  /-- An instruction with no meaning yet; raised by no arm now. Safe. -/
  | notModelled (mnemonic : String)
deriving DecidableEq, Repr

/-- The whole state. The fields of the spec stand under the names of 10_state.md; the last three and
`params` are the model's own (INVENTORY.md). -/
structure State where
  /-- The parameter set (R6); no step changes it (log 1). -/
  params : Params
  /-- `slot[k].len` by `k`, 7 bits each (R30). -/
  slotLen : Cells 7
  /-- `slot[k].bytes[i]` at index `k·C + i` (R30, R60). -/
  slotBytes : Memory
  /-- `w`, the write cursor, W bits (R31; log 9). -/
  w : Nat
  /-- `r`, the read cursor, W bits (R32; log 9). -/
  r : Nat
  /-- `lost` (R33). -/
  lost : BitVec 32
  /-- `fbuf` (R35). -/
  fbuf : Memory
  /-- `flen` (R36). -/
  flen : FrameLen
  /-- `rate` (R37). -/
  rate : BitVec 16
  /-- `reload` (R38). -/
  reload : BitVec 32
  /-- `active_reload` (R39). -/
  activeReload : BitVec 32
  /-- `tcount` (R40). -/
  tcount : BitVec 32
  /-- `irq_pending` (R41). -/
  irqPending : Bool
  /-- `band_led` (R42). -/
  bandLed : Bool
  /-- `lbuf` (R43). -/
  lbuf : Memory
  /-- `lcur` (R44). -/
  lcur : BitVec 6
  /-- `discard` (R45). -/
  discard : Bool
  /-- `cmd_ack` (R46). -/
  cmdAck : Bool
  /-- `events`, each with the number of the step that produced it, oldest first (R47; log 8). -/
  events : List (Nat × Event)
  /-- What the environment is still to present, next first (log 5). -/
  inputs : List Input
  /-- The response of the last completed request, if it had one (R88; log 7). -/
  response : Option Response
  /-- Requests taken since reset (log 8). -/
  stepNo : Nat
deriving DecidableEq, Repr

/-- The state after reset for a parameter set (R220), nothing presented. The arrays are unspecified in R220:
they list nothing (log 4). -/
def State.resetOf (p : Params) : State where
  params := p
  slotLen := []
  slotBytes := []
  w := 0
  r := 0
  lost := 0#32
  fbuf := []
  flen := 0#7
  rate := BitVec.ofNat 16 p.resetRate
  reload := reloadOf p p.resetRate
  activeReload := reloadOf p p.resetRate
  tcount := 0#32
  irqPending := false
  bandLed := false
  lbuf := []
  lcur := 0#6
  discard := false
  cmdAck := false
  events := []
  inputs := []
  response := none
  stepNo := 0

/-- The machine right after reset, with the parameter set of `Config.params` (log 2). -/
def State.reset : State := State.resetOf Config.params

end Sys2Proof.Machine
end

