-- ==== Sys2Proof/Machine/Ops.lean ====
section
/-! DEFINITION. The named operations over the state that the meanings share: the configuration check,
responses and errors, events, cursor arithmetic, and the storage primitives of 00_scope.md R10.
The AQB takes no exceptions (60_exceptions.md R200): what stands in their place is the error response
(R201, R202), one shared operation here, and the model faults (R203). -/

namespace Sys2Proof.Machine

/-- The outcome of a step. -/
abbrev Result := Host.Outcome State Fault Refusal

/-- The configuration check (R203, R6): the model gives no meaning to a parameter set that breaks R6
(log 15). -/
def checked (s : State) (o : Result) : Result :=
  if s.params.Ok then o else .fault .badConfig

/-- The outcome of an operation that may reach a forbidden state (R12). -/
def ofExcept : Except Fault State → Result
  | .ok s => .next s
  | .error f => .fault f

/-! ### Responses, errors, events -/

/-- `respond` (R10, R88). -/
def State.respond (s : State) (resp : Response) : State := { s with response := some resp }

/-- `respond OK(0, [])`. -/
def State.respondOk (s : State) : State := s.respond { code := .ok }

/-- Reporting an error (R200-R202): the error's response, and nothing else changes. -/
def State.respondError (s : State) (code : RespCode) : State := s.respond { code := code }

/-- `emit` (R10, R47): append an event tagged with the step that produces it. -/
def State.emit (s : State) (e : Event) : State := { s with events := s.events ++ [(s.stepNo, e)] }

/-! ### Cursors (10_state.md R31, R32, R34; 20_memory.md R61) -/

/-- `a +_W b` (R9). -/
def addW (p : Params) (a b : Nat) : Nat := (a + b) % 2 ^ p.cursorW

/-- `a −_W b` (R9). -/
def subW (p : Params) (a b : Nat) : Nat := (a + (2 ^ p.cursorW - b % 2 ^ p.cursorW)) % 2 ^ p.cursorW

/-- `d = w −_W r` (R34). -/
def State.distance (s : State) : Nat := subW s.params s.w s.r

/-- `count = min(d, N)` (R34, R102). -/
def State.count (s : State) : Nat := min s.distance s.params.ringSlots

/-- The slot a cursor selects, `c mod N` (R61). -/
def slotOf (p : Params) (c : Nat) : Nat := c % p.ringSlots

/-! ### Storage (R10, R60) -/

/-- `MemRead` bounded by its array: a byte outside the array does not exist (log 11). -/
def memRead (size : Nat) (m : Memory) (i count : Nat) : Except Fault (List Byte) :=
  if i + count ≤ size then .ok (Cells.readN m i count) else .error (.noSuchByte size)

/-- All C bytes of slot `k`. -/
def State.slotData (s : State) (k : Nat) : List Byte :=
  Cells.readN s.slotBytes (k * s.params.frameCap) s.params.frameCap

/-- The length field of slot `k`. -/
def State.slotLength (s : State) (k : Nat) : FrameLen := Cells.read s.slotLen k

/-- `SlotWrite(k, len, bytes)` (R10). -/
def State.slotWrite (s : State) (k : Nat) (len : FrameLen) (bytes : List Byte) : State :=
  { s with
    slotLen := Cells.write s.slotLen k len
    slotBytes := Cells.writeN s.slotBytes (k * s.params.frameCap) bytes }

/-- The C bytes of the frame under construction (R35, R100). -/
def State.frameBytes (s : State) : List Byte := Cells.readN s.fbuf 0 s.params.frameCap

/-- The characters of the pending line, `lbuf[0..lcur−1]` (R43, R160). -/
def State.lineBytes (s : State) : Except Fault (List Byte) :=
  memRead s.params.lineCap s.lbuf 0 s.lcur.toNat

end Sys2Proof.Machine
end

