-- ==== Sys2Proof/Machine/Operands.lean ====
section
/-! DEFINITION. The operand forms: the status selectors (44_status_control.md R182), the two symbols of a
sample (41_frame_encoder.md R121), the bytes of a line (43_command_parser.md R161, R162). -/

namespace Sys2Proof.Machine

/-- The status selectors (R182), in the order of their numbers 0..10. -/
inductive Selector where
  | count
  | widx
  | ridx
  | lost
  | rate
  | reload
  | arel
  | tcount
  | flags
  | lcur
  | flen
deriving DecidableEq, Repr

/-- The selector of a `sel` operand: 11..15 name none (R84). -/
def selectorOf (sel : BitVec 4) : Option Selector :=
  match sel.toNat with
  | 0 => some .count
  | 1 => some .widx
  | 2 => some .ridx
  | 3 => some .lost
  | 4 => some .rate
  | 5 => some .reload
  | 6 => some .arel
  | 7 => some .tcount
  | 8 => some .flags
  | 9 => some .lcur
  | 10 => some .flen
  | _ => none

/-- `ALPHABET[i]` (R120). -/
def symbolAt (p : Params) (i : BitVec 6) : Byte := p.alphabet.getD i.toNat 0#8

/-- `sym(v)` (R121): bits 5:0 first, then bits 11:6; bits 15:12 are dropped. -/
def sym (p : Params) (v : Sample) : List Byte :=
  [symbolAt p (v.extractLsb' 0 6), symbolAt p (v.extractLsb' 6 6)]

/-- The bytes `'\n'` and `'\r'`, and no others, end a line (R161). -/
def isTerminator (b : Byte) : Bool := b == 0x0A#8 || b == 0x0D#8

/-- A decimal digit character (R162). -/
def isDigit (b : Byte) : Bool := decide (0x30 ≤ b.toNat) && decide (b.toNat ≤ 0x39)

/-- The value of a list of digits: the sum of R162. -/
def decValue : List Byte → Nat
  | [] => 0
  | c :: cs => (c.toNat - 0x30) * 10 ^ cs.length + decValue cs

/-- `parseDec` (R162): one or more digits and nothing else, exact. -/
def parseDec (bs : List Byte) : Option Nat :=
  if bs.isEmpty then none
  else if bs.all isDigit then some (decValue bs)
  else none

end Sys2Proof.Machine
end

