-- ==== Sys2Proof/Machine/Ring.lean ====
section
/-! DEFINITION. The ring buffer family: RB_WRITE and POP (40_ring_buffer.md R100, R101). -/

namespace Sys2Proof.Machine

/-- The loss test of RB_WRITE: a write at distance `d ≥ N` overwrites one unread frame (R100). -/
def State.countLoss (s : State) : State :=
  { s with lost := if s.params.ringSlots ≤ s.distance then s.lost + 1#32 else s.lost }

/-- Publish the slot just written: `w <- w +_W 1` (R100). -/
def State.advanceW (s : State) : State := { s with w := addW s.params s.w 1 }

/-- The effect of an RB_WRITE that does not fault, on the frame in `fbuf` (R100). -/
def State.putFrame (s : State) (len : FrameLen) : State :=
  ((s.countLoss.slotWrite (slotOf s.params s.w) len s.frameBytes).emit (.sealed s.w)).advanceW

/-- RB_WRITE (R100), the shared operation: SEAL uses it too. -/
def ringWrite (len : FrameLen) (s : State) : Except Fault State :=
  if s.params.frameCap < len.toNat then .error (.badFrameLength len) else .ok (s.putFrame len)

/-- RB_WRITE (R100). It has no response of its own (R85). -/
def execRbWrite (len : FrameLen) (s : State) : Result := checked s (ofExcept (ringWrite len s))

/-- The cursor a POP reads at: after the catch-up of an overrun (R101). -/
def State.readCursor (s : State) : Nat :=
  if s.params.ringSlots < s.distance then subW s.params s.w s.params.ringSlots else s.r

/-- The slot a POP reads. -/
def State.readSlot (s : State) : Nat := slotOf s.params s.readCursor

/-- Move `r` past the frame just read (R101). -/
def State.advanceR (s : State) : State := { s with r := addW s.params s.readCursor 1 }

/-- The response of a POP that reads slot `k` (R88, R101): its length, and that many of its bytes. -/
def State.frameResponse (s : State) (k : Nat) : Response :=
  { code := .frame
    value := (s.slotLength k).zeroExtend 32
    data := (s.slotData k).take (s.slotLength k).toNat }

/-- POP (R101). A slot length above C would name bytes the slot does not have (R30; log 11). -/
def execPop (s : State) : Result :=
  checked s <|
    if s.distance = 0 then .next (s.respond { code := .empty })
    else if s.params.frameCap < (s.slotLength s.readSlot).toNat then
      .fault (.noSuchByte s.params.frameCap)
    else .next (s.advanceR.respond (s.frameResponse s.readSlot))

end Sys2Proof.Machine
end

