-- ==== Sys2Proof/Machine/Encoder.lean ====
section
/-! DEFINITION. The frame encoder family: ENC and SEAL (41_frame_encoder.md R122, R123). -/

namespace Sys2Proof.Machine

/-- Append one sample's two symbols at `flen` (R122). -/
def State.appendSymbols (s : State) (v : Sample) : State :=
  { s with
    fbuf := Cells.writeN s.fbuf s.flen.toNat (sym s.params v)
    flen := s.flen + 2#7 }

/-- `fbuf[C−1] <- TERM` (R123). -/
def State.terminateFrame (s : State) : State :=
  { s with fbuf := Cells.write s.fbuf (s.params.frameCap - 1) s.params.term }

/-- `flen <- 0` (R123). -/
def State.freshFrame (s : State) : State := { s with flen := 0#7 }

/-- SEAL (R123): terminate the frame, write it into the ring with length C, start a fresh one. -/
def sealFrame (s : State) : Except Fault State :=
  match ringWrite (BitVec.ofNat 7 s.params.frameCap) s.terminateFrame with
  | .ok t => .ok t.freshFrame
  | .error f => .error f

/-- ENC (R122), the shared operation: ACQ uses it too. The seal is part of the same step, after the
append (C2, D5). -/
def encodeSample (v : Sample) (s : State) : Except Fault State :=
  if s.params.frameCap - 3 < s.flen.toNat ∨ s.flen.toNat % 2 = 1 then .error (.encoderState s.flen)
  else if s.flen.toNat + 2 = s.params.frameCap - 1 then sealFrame (s.appendSymbols v)
  else .ok (s.appendSymbols v)

/-- ENC (R122). It has no response of its own (R85). -/
def execEnc (v : Sample) (s : State) : Result := checked s (ofExcept (encodeSample v s))

end Sys2Proof.Machine
end

