-- ==== Sys2Proof/Machine/Flags.lean ====
section
/-! DEFINITION. The one-bit state: the flags word (10_state.md R53), the band check
(42_timer_acquisition.md R145) and the acceptance test of a rate (43_command_parser.md R163). -/

namespace Sys2Proof.Machine

/-- The FLAGS word `{28'b0, discard, cmd_ack, band_led, irq_pending}` (R53, R182). -/
def State.flagsWord (s : State) : Word :=
  0#28 ++ BitVec.ofBool s.discard ++ BitVec.ofBool s.cmdAck ++ BitVec.ofBool s.bandLed ++
    BitVec.ofBool s.irqPending

/-- Out of band: `s > BAND_HI or s < BAND_LO`, on the full 16 bits (R145). -/
def outOfBand (p : Params) (v : Sample) : Bool :=
  decide (p.bandHi < v.toNat) || decide (v.toNat < p.bandLo)

/-- Step 2 of ACQ: an out-of-band sample inverts `band_led`; nothing else changes (R145). -/
def State.bandCheck (s : State) (v : Sample) : State :=
  { s with bandLed := s.bandLed ^^ outOfBand s.params v }

/-- The accepted range, both bounds inclusive (R163). -/
def rateAccepted (p : Params) (n : Nat) : Bool := decide (p.rateMin ≤ n) && decide (n ≤ p.rateMax)

end Sys2Proof.Machine
end

