-- ==== Sys2Proof/Machine/Parser.lean ====
section
/-! DEFINITION. The command parser family: RXB and RXDONE (43_command_parser.md R160-R166). -/

namespace Sys2Proof.Machine

/-- APPLY(n) (R164): rate, reload and the acknowledge toggle in one step. -/
def State.applyRate (s : State) (n : Nat) : State :=
  { s with
    rate := BitVec.ofNat 16 n
    reload := reloadOf s.params n
    cmdAck := !s.cmdAck }

/-- What a line does to the period state (R160-R163): an accepted rate is applied, anything else is
silently discarded. -/
def State.applyLine (s : State) (line : List Byte) : State :=
  match parseDec line with
  | some n => if rateAccepted s.params n then s.applyRate n else s
  | none => s

/-- The end of every line (R160): the cursor and the overflow flag are reset. -/
def State.endLine (s : State) : State := { s with lcur := 0#6, discard := false }

/-- Append a character (R160). -/
def State.pushChar (s : State) (b : Byte) : State :=
  { s with lbuf := Cells.write s.lbuf s.lcur.toNat b, lcur := s.lcur + 1#6 }

/-- The line has overflowed (R165). -/
def State.overflowLine (s : State) : State := { s with lcur := 0#6, discard := true }

/-- RXB on a line terminator (R160). -/
def lineEnd (s : State) : Except Fault State :=
  if s.discard then .ok s.endLine
  else
    match s.lineBytes with
    | .ok line => .ok (s.applyLine line).endLine
    | .error f => .error f

/-- RXB on any other byte (R160, R165). -/
def State.lineChar (s : State) (b : Byte) : State :=
  if s.discard then s
  else if s.lcur.toNat < s.params.lineCap then s.pushChar b
  else s.overflowLine

/-- RXB (R160). -/
def execRxb (b : Byte) (s : State) : Result :=
  checked s <|
    if isTerminator b then
      match lineEnd s with
      | .ok t => .next t.respondOk
      | .error f => .fault f
    else .next (s.lineChar b).respondOk

/-- RXDONE (R166): re-arm the inbound transport; the pending line is kept. -/
def execRxdone (s : State) : Result := checked s (.next (s.emit .rxRearm).respondOk)

end Sys2Proof.Machine
end

