-- ==== Sys2Proof/Machine/Status.lean ====
section
/-! DEFINITION. The status and control family: NOP and STAT (44_status_control.md R180-R182). -/

namespace Sys2Proof.Machine

/-- NOP (R180). -/
def execNop (s : State) : Result := checked s (.next s.respondOk)

/-- The COUNT word: `min(w −_W r, N)` (R182). A count that 32 bits cannot hold has no stated word (log 12). -/
def State.countWord (s : State) : Word :=
  if s.count < 2 ^ 32 then BitVec.ofNat 32 s.count else Config.wideCount s.count

/-- `statusValue(sel)` (R182). A cursor wider than 32 bits gives its low 32 bits. -/
def State.statusValue (s : State) : Selector → Word
  | .count => s.countWord
  | .widx => BitVec.ofNat 32 s.w
  | .ridx => BitVec.ofNat 32 s.r
  | .lost => s.lost
  | .rate => s.rate.zeroExtend 32
  | .reload => s.reload
  | .arel => s.activeReload
  | .tcount => s.tcount
  | .flags => s.flagsWord
  | .lcur => s.lcur.zeroExtend 32
  | .flen => s.flen.zeroExtend 32

/-- STAT (R181): the value from the pre-step state, and no side effect. A selector in 11..15, which no
word spells, is ERR_ILLEGAL (R181; log 19). -/
def execStat (sel : BitVec 4) (s : State) : Result :=
  checked s <|
    match selectorOf sel with
    | some sel => .next (s.respond { code := .value, value := s.statusValue sel })
    | none => .next (s.respondError .errIllegal)

end Sys2Proof.Machine
end

