-- ==== Sys2Proof/Machine/Timer.lean ====
section
/-! DEFINITION. The timer and acquisition family: TICK and ACQ (42_timer_acquisition.md R141, R144). -/

namespace Sys2Proof.Machine

/-- The timer reaches the end of its period: restart, latch the period state in force, set the flag
(R141). A flag already set stays set (R143). -/
def State.expire (s : State) : State :=
  { s with tcount := 0#32, activeReload := s.reload, irqPending := true }

/-- One TICK inside the period (R141). -/
def State.countTick (s : State) : State := { s with tcount := s.tcount + 1#32 }

/-- TICK (R141). A count that does not fit `tcount` is a model fault (R9; log 10); no run reaches it. -/
def execTick (s : State) : Result :=
  checked s <|
    if s.tcount = s.activeReload then .next s.expire.respondOk
    else if s.tcount.toNat + 1 < 2 ^ 32 then .next s.countTick.respondOk
    else .fault (.registerRange (s.tcount.toNat + 1))

/-- `irq_pending <- 0` (R144 step 4). -/
def State.clearIrq (s : State) : State := { s with irqPending := false }

/-- ACQ (R144): the whole handler, from entry to return, in one step (R208). -/
def execAcq (v : Sample) (s : State) : Result :=
  checked s <|
    if s.irqPending then
      match encodeSample v ((s.emit .adcStart).bandCheck v) with
      | .ok t => .next t.clearIrq.respondOk
      | .error f => .fault f
    else .next (s.respondError .errNotPending)

end Sys2Proof.Machine
end

