-- ==== Sys2Proof/Syntax.lean ====
section
/-! DEFINITION. The requests of the AQB, one constructor per row of spec/opcode_table.json,
the two paths on which a request arrives, and the agents (00_scope.md R13). -/

namespace Sys2Proof

/-- A request (30_encoding.md R84, R85). Operands are the fields of R83, used as they are. -/
inductive Instr where
  /-- R180. -/
  | nop
  /-- R141: one period of the timer clock. -/
  | tick
  /-- R144: the acquisition service step on one sample. -/
  | acq (sample : Sample)
  /-- R101: the consumer's read. -/
  | pop
  /-- R160: one inbound byte. -/
  | rxb (byte : Byte)
  /-- R166: end of an inbound chunk. -/
  | rxdone
  /-- R181: status readback. Selectors 11..15 are not well formed. -/
  | stat (sel : BitVec 4)
  /-- R100, internal: write the frame under construction into the ring. -/
  | rbWrite (len : FrameLen)
  /-- R122, internal: append one sample's symbols. -/
  | enc (sample : Sample)
deriving DecidableEq, Repr

/-- The two opcode maps: that of the request interface (R84), and that of the internal path, which only the ACQ
step's own sequencing uses (R85). -/
inductive Path where
  | bus
  | internal
deriving DecidableEq, Repr

/-- The five agents (R13). -/
inductive Agent where
  | timer
  | acq
  | consumer
  | parser
  | debug
deriving DecidableEq, Repr

end Sys2Proof
end

