-- ==== Sys2Proof/Machine/Dispatch.lean ====
section
/-! DEFINITION. The meaning of every request. -/

namespace Sys2Proof.Machine

def exec (i : Instr) (s : State) : Host.Outcome State Fault Refusal :=
  match i with
  | .nop => Sys2Proof.Machine.execNop s
  | .tick => Sys2Proof.Machine.execTick s
  | .acq sample => Sys2Proof.Machine.execAcq sample s
  | .pop => Sys2Proof.Machine.execPop s
  | .rxb byte => Sys2Proof.Machine.execRxb byte s
  | .rxdone => Sys2Proof.Machine.execRxdone s
  | .stat sel => Sys2Proof.Machine.execStat sel s
  | .rbWrite len => Sys2Proof.Machine.execRbWrite len s
  | .enc sample => Sys2Proof.Machine.execEnc sample s

end Sys2Proof.Machine
end

