-- ==== Sys2Proof/WellFormed.lean ====
section
/-! DEFINITION. Which requests some word spells. -/

namespace Sys2Proof

/-- The largest status selector that is defined (30_encoding.md R84, 44_status_control.md R182). -/
def maxSelector : Nat := 10

/-- A request that has an encoding: the only operand whose field admits an illegal value is STAT's
selector (R84, R87). -/
def Instr.wellFormed : Instr → Bool
  | .nop => true
  | .tick => true
  | .acq _ => true
  | .pop => true
  | .rxb _ => true
  | .rxdone => true
  | .stat sel => decide (sel.toNat ≤ maxSelector)
  | .rbWrite _ => true
  | .enc _ => true

end Sys2Proof
end

