-- ==== Sys2Proof/Decode.lean ====
section
/-! DEFINITION. Decoding of request words (30_encoding.md R80-R87), total on both paths, and the encoder. -/

namespace Sys2Proof

/-- Why a word selects no request on the path it arrives on (60_exceptions.md R201). -/
inductive Illegal where
  /-- A reserved opcode: 0x7, 0xA..0xF (R86). -/
  | reservedOpcode (op : BitVec 4)
  /-- An internal opcode on the request interface (R85). -/
  | internalOpcode (op : BitVec 4)
  /-- A reserved bit is not 0 (R82). -/
  | reservedBits (op : BitVec 4)
  /-- A STAT selector in 11..15 (R84). -/
  | selector (sel : BitVec 4)
  /-- On the internal path: an opcode other than 0x8 and 0x9 (R85). -/
  | notInternal (op : BitVec 4)
deriving DecidableEq, Repr

/-- `req[31:28]` (R80). -/
def opField (req : Word) : BitVec 4 := req.extractLsb' 28 4

/-- A request of format F0: every bit below the opcode is reserved (R81). -/
def decodeF0 (req : Word) (i : Instr) : Except Illegal Instr :=
  if req.extractLsb' 0 28 = 0#28 then .ok i else .error (.reservedBits (opField req))

/-- A request of format FS: `sample = req[15:0]`, bits 27:16 reserved (R81). -/
def decodeFS (req : Word) (f : Sample → Instr) : Except Illegal Instr :=
  if req.extractLsb' 16 12 = 0#12 then .ok (f (req.extractLsb' 0 16))
  else .error (.reservedBits (opField req))

/-- A request of format FB: `byte = req[7:0]`, bits 27:8 reserved (R81). -/
def decodeFB (req : Word) (f : Byte → Instr) : Except Illegal Instr :=
  if req.extractLsb' 8 20 = 0#20 then .ok (f (req.extractLsb' 0 8))
  else .error (.reservedBits (opField req))

/-- A request of format FSEL: `sel = req[3:0]` in 0..10, bits 27:4 reserved (R81, R84). -/
def decodeFSEL (req : Word) (f : BitVec 4 → Instr) : Except Illegal Instr :=
  if req.extractLsb' 4 24 = 0#24 then
    if (req.extractLsb' 0 4).toNat ≤ maxSelector then .ok (f (req.extractLsb' 0 4))
    else .error (.selector (req.extractLsb' 0 4))
  else .error (.reservedBits (opField req))

/-- A request of format FL: `len = req[6:0]`, bits 27:7 reserved (R81). -/
def decodeFL (req : Word) (f : FrameLen → Instr) : Except Illegal Instr :=
  if req.extractLsb' 7 21 = 0#21 then .ok (f (req.extractLsb' 0 7))
  else .error (.reservedBits (opField req))

/-- A word on the request interface (R87). Every word gives exactly one result. -/
def decodeBus (req : Word) : Except Illegal Instr :=
  match (opField req).toNat with
  | 0x0 => decodeF0 req .nop
  | 0x1 => decodeF0 req .tick
  | 0x2 => decodeFS req .acq
  | 0x3 => decodeF0 req .pop
  | 0x4 => decodeFB req .rxb
  | 0x5 => decodeF0 req .rxdone
  | 0x6 => decodeFSEL req .stat
  | 0x8 => .error (.internalOpcode (opField req))
  | 0x9 => .error (.internalOpcode (opField req))
  | _ => .error (.reservedOpcode (opField req))

/-- A word by the internal opcode map: the two requests the ACQ step issues, and no agent presents (R85). -/
def decodeInternal (req : Word) : Except Illegal Instr :=
  match (opField req).toNat with
  | 0x8 => decodeFL req .rbWrite
  | 0x9 => decodeFS req .enc
  | _ => .error (.notInternal (opField req))

/-- The decoder of a path. -/
def decodeOn : Path → Word → Except Illegal Instr
  | .bus => decodeBus
  | .internal => decodeInternal

/-- The opcode map by which a table row's word is read: the internal one only for words that are a request there
and not on the bus (log 6). No step uses it: what is presented is read by `decodeBus`. -/
def routeOf (req : Word) : Path :=
  match decodeBus req with
  | .ok _ => .bus
  | .error _ =>
    match decodeInternal req with
    | .ok _ => .internal
    | .error _ => .bus

/-- The path on which a request is issued (R84, R85). -/
def Instr.path : Instr → Path
  | .nop => .bus
  | .tick => .bus
  | .acq _ => .bus
  | .pop => .bus
  | .rxb _ => .bus
  | .rxdone => .bus
  | .stat _ => .bus
  | .rbWrite _ => .internal
  | .enc _ => .internal

/-- The word of a request (R81, R84, R85): the opcode above the reserved zeros above the operand. -/
def encode : Instr → Word
  | .nop => 0x0#4 ++ 0#28
  | .tick => 0x1#4 ++ 0#28
  | .acq sample => 0x2#4 ++ 0#12 ++ sample
  | .pop => 0x3#4 ++ 0#28
  | .rxb byte => 0x4#4 ++ 0#20 ++ byte
  | .rxdone => 0x5#4 ++ 0#28
  | .stat sel => 0x6#4 ++ 0#24 ++ sel
  | .rbWrite len => 0x8#4 ++ 0#21 ++ len
  | .enc sample => 0x9#4 ++ 0#12 ++ sample

/-- What the decoder makes of a row's word, by the opcode map that lists the row (log 6). -/
def decodeTableWord (nbits w : Nat) : Option Instr :=
  let req := BitVec.ofNat 32 (w % 2 ^ nbits)
  (decodeOn (routeOf req) req).toOption

end Sys2Proof
end

