-- ==== Sys2Proof/Machine/Requests.lean ====
section
/-! DEFINITION. How a request comes to the block, and what a step does besides running it: taking the next
input, ILLEGAL words (60_exceptions.md R201), and the reset input (70_reset_and_hazards.md R220, R221). -/

namespace Sys2Proof.Machine

/-- Take a request off the inputs: it is the step's number, and it has no response yet (log 5, 7, 8). -/
def State.accept (s : State) (rest : List Input) : State :=
  { s with inputs := rest, response := none, stepNo := s.stepNo + 1 }

/-- A word that decodes to ILLEGAL completes with ERR_ILLEGAL and changes nothing (R201). -/
def rejectIllegal (s : State) : Result := checked s (.next (s.respondError .errIllegal))

/-- The reset input (R220, R221): every register and array takes its reset value, in one step. The
parameters stay, and so does what the environment is still to present (log 14). -/
def resetInput (s : State) (rest : List Input) : Result :=
  checked s (.next { State.resetOf s.params with inputs := rest })

/-- No request is presented: the block waits, and nothing changes (log 5). -/
def idle (s : State) : Result := checked s (.next s)

/-- Present a word on the request interface as the very next input (R80, R84). -/
def State.present (s : State) (req : Word) : State := { s with inputs := .request req :: s.inputs }

end Sys2Proof.Machine
end

