-- ==== Sys2Proof/Machine/Step.lean ====
section
/-! DEFINITION. One step of the block: one input, handled as one atomic step (00_scope.md R11, R12). -/

namespace Sys2Proof.Machine

/-- One step (R11, R12). Decoding comes first (R204). A word of RB_WRITE or ENC is ILLEGAL here (R85): those two
requests take effect only inside the step of an ACQ, which runs them itself (`execAcq`). -/
def step (s : State) : Host.Outcome State Fault Refusal :=
  match s.inputs with
  | [] => idle s
  | .request word :: rest =>
    match decodeBus word with
    | .ok i => exec i (s.accept rest)
    | .error _ => rejectIllegal (s.accept rest)
  | .reset :: rest => resetInput s rest

/-- `s` with the request word `w` of `nbits` bits presented next on the request interface (log 5). The words of
the two internal rows answer ERR_ILLEGAL there (R85, R211; log 6). -/
def State.withFetchWord (s : State) (nbits w : Nat) : State :=
  s.present (BitVec.ofNat 32 (w % 2 ^ nbits))

end Sys2Proof.Machine
end

