-- ==== Sys2Proof/Machine/Wire.lean ====
section
/-! DEFINITION. The wire form of a response (30_encoding.md R88). -/

namespace Sys2Proof.Machine

/-- The 4-bit code of a response. Codes 0x4..0xC and 0xF are never produced (R88). -/
def RespCode.bits : RespCode → BitVec 4
  | .ok => 0x0#4
  | .empty => 0x1#4
  | .frame => 0x2#4
  | .value => 0x3#4
  | .errNotPending => 0xD#4
  | .errIllegal => 0xE#4

/-- What follows the response word on a wire (R88). The byte order of words is the carrier's (R64). -/
inductive WireTail where
  | nothing
  | bytes (data : List Byte)
  | word (value : Word)
deriving DecidableEq, Repr

/-- The response word: `{code, 21'b0, len}` for FRAME, `{code, 28'b0}` otherwise (R88). -/
def Response.header (resp : Response) : Word :=
  match resp.code with
  | .frame => resp.code.bits ++ 0#21 ++ resp.value.extractLsb' 0 7
  | _ => resp.code.bits ++ 0#28

/-- The `len` data bytes for FRAME, one `value` word for VALUE (R88). -/
def Response.tail (resp : Response) : WireTail :=
  match resp.code with
  | .frame => .bytes resp.data
  | .value => .word resp.value
  | _ => .nothing

end Sys2Proof.Machine
end

