-- ==== Sys2Proof/Machine/Agents.lean ====
section
/-! DEFINITION. Which agent issues which request and when it has a step (00_scope.md R12, R13), and the
commit order of requests presented in one clock cycle (60_exceptions.md R206). The block itself does not
check who presents a word (R211; log 13). -/

namespace Sys2Proof.Machine

/-- The agent that issues a request (R13, R84); the internal ones are issued by the ACQ step (R85). -/
def issuerOf : Instr → Agent
  | .nop => .debug
  | .tick => .timer
  | .acq _ => .acq
  | .pop => .consumer
  | .rxb _ => .parser
  | .rxdone => .parser
  | .stat _ => .debug
  | .rbWrite _ => .acq
  | .enc _ => .acq

/-- Whether an agent has a step: ACQ only while `irq_pending = 1`, the others always (R12, R144). -/
def agentEnabled : Agent → State → Bool
  | .timer, _ => true
  | .acq, s => s.irqPending
  | .consumer, _ => true
  | .parser, _ => true
  | .debug, _ => true

/-- The place of a request word in the order of R206. An ILLEGAL word, for which R206 names no place,
stands last (log 16). -/
def commitRank (req : Word) : Nat :=
  match decodeBus req with
  | .ok .tick => 0
  | .ok (.acq _) => 1
  | .ok .pop => 2
  | .ok (.rxb _) => 3
  | .ok .rxdone => 4
  | .ok (.stat _) => 5
  | .ok .nop => 5
  | .ok (.rbWrite _) => 6
  | .ok (.enc _) => 6
  | .error _ => 6

/-- The words of one clock cycle in the order in which they commit (R206). Words of one place keep the order
given. -/
def commitOrder (reqs : List Word) : List Word :=
  (List.range 7).flatMap fun k => reqs.filter fun req => commitRank req == k

/-- Present the requests of one clock cycle, after what is already presented (R206). -/
def State.presentCycle (s : State) (reqs : List Word) : State :=
  { s with inputs := s.inputs ++ (commitOrder reqs).map Input.request }

/-- Present a sequence of requests in the order given: one interleaving of the agents (R11). -/
def State.presentAll (s : State) (reqs : List Word) : State :=
  { s with inputs := s.inputs ++ reqs.map Input.request }

end Sys2Proof.Machine
end

