-- ==== Sys2Proof/Safety.lean ====
section
/-! DEFINITION. What counts as a good state and a good run, in the terms the statements use
(10_state.md R51, R52; 40_ring_buffer.md R102-R105). -/

namespace Sys2Proof.Machine

/-! ### The invariants of R52, and the form of the data -/

/-- Every array is in its canonical form. -/
abbrev State.arraysWf (s : State) : Prop :=
  Cells.wf s.slotLen ∧ Memory.wf s.slotBytes ∧ Memory.wf s.fbuf ∧ Memory.wf s.lbuf

/-- No array lists an index it does not have (R60). -/
abbrev State.arraysWithin (s : State) : Prop :=
  Cells.within s.slotLen s.params.ringSlots ∧
  Cells.within (n := 8) s.slotBytes (s.params.ringSlots * s.params.frameCap) ∧
  Cells.within (n := 8) s.fbuf s.params.frameCap ∧
  Cells.within (n := 8) s.lbuf s.params.lineCap

/-- The cursors are W-bit values (R31, R32). -/
abbrev State.cursorsOk (s : State) : Prop := s.w < 2 ^ s.params.cursorW ∧ s.r < 2 ^ s.params.cursorW

/-- R52 (i). -/
abbrev State.encoderOk (s : State) : Prop :=
  s.flen.toNat % 2 = 0 ∧ s.flen.toNat ≤ s.params.frameCap - 3

/-- R52 (ii). -/
abbrev State.timerOk (s : State) : Prop := s.tcount.toNat ≤ s.activeReload.toNat

/-- R52 (iii). -/
abbrev State.periodOk (s : State) : Prop :=
  s.params.rateMin ≤ s.rate.toNat ∧ s.rate.toNat ≤ s.params.rateMax ∧
  s.reload.toNat = s.params.timerClkHz / s.rate.toNat - 1

/-- R52 (iv). -/
abbrev State.parserOk (s : State) : Prop :=
  s.lcur.toNat ≤ s.params.lineCap ∧ (s.discard = true → s.lcur = 0#6)

/-- R52 (v): a slot whose length is listed has been written, and its length is C. -/
abbrev State.slotsSealed (s : State) : Prop := ∀ c ∈ s.slotLen, c.2.toNat = s.params.frameCap

/-- The invariant of a run from reset: R52 (i) to (v), the form of the data, a legal parameter set (R6). -/
abbrev State.Inv (s : State) : Prop :=
  s.params.Ok ∧ s.arraysWf ∧ s.arraysWithin ∧ s.cursorsOk ∧ s.encoderOk ∧ s.timerOk ∧ s.periodOk ∧
  s.parserOk ∧ s.slotsSealed

/-! ### Runs of meanings -/

/-- The meanings of a list of requests one after the other, stopping at the first fault or refusal. -/
def runAll : List Instr → State → Result
  | [], s => .next s
  | i :: rest, s =>
    match exec i s with
    | .next t => runAll rest t
    | .fault f => .fault f
    | .refused f => .refused f

/-- The responses of `k` POPs in a row, oldest first. -/
def popResponses : Nat → State → List (Option Response)
  | 0, _ => []
  | k + 1, s =>
    match exec .pop s with
    | .next t => t.response :: popResponses k t
    | .fault _ => []
    | .refused _ => []

/-- Fill the frame under construction with a frame and write it into the ring with length C, as a seal
does (R123). -/
def State.produce (s : State) (frame : List Byte) : Result :=
  exec (.rbWrite (BitVec.ofNat 7 s.params.frameCap)) { s with fbuf := Cells.writeN s.fbuf 0 frame }

/-- Produce several frames in order. -/
def produceAll : List (List Byte) → State → Result
  | [], s => .next s
  | f :: rest, s =>
    match s.produce f with
    | .next t => produceAll rest t
    | .fault e => .fault e
    | .refused e => .refused e

/-- The response of a POP that returns a sealed frame (R88, R101). -/
def frameOf (frame : List Byte) : Response :=
  { code := .frame, value := BitVec.ofNat 32 frame.length, data := frame }

/-- The registers and arrays of the spec agree: everything but the model's own `inputs`, `response` and
`stepNo`. -/
abbrev State.sameBlock (s t : State) : Prop :=
  t = { s with inputs := t.inputs, response := t.response, stepNo := t.stepNo }

end Sys2Proof.Machine
end

