-- ==== Sys2Proof/Certificates/Slice0/Obligations.lean ====
section
/-! DEFINITION. The statements for the provers. Each docstring names the rule it formalises. `respond`,
`emit` and the other updates are written out as record updates, memory is read one byte at a time, and
arithmetic is on natural numbers (00_scope.md R9), so that a statement can be held beside its rule. -/

open Sys2Proof Sys2Proof.Machine

/-! ### Status and control -/

/-- R180: the zero word, and no other, is NOP; any other word with op 0x0 is ILLEGAL; NOP responds OK and changes
nothing. -/
def Obligations.NopOnlyResponds : Prop :=
  (∀ req : Word, decodeBus req = .ok .nop ↔ req = 0#32) ∧
  (∀ req : Word, req.toNat / 2 ^ 28 = 0 → req ≠ 0#32 → ∃ e, decodeBus req = .error e) ∧
  ∀ s : State, s.params.Ok → exec .nop s = .next { s with response := some { code := .ok } }

/-- R181, R182: STAT answers the selected value and changes nothing else. COUNT is stated where 32 bits
hold it; a wider one is a free value (log 12) of which nothing is said. -/
def Obligations.StatReturnsSelectedValue : Prop :=
  ∀ (s : State) (sel : BitVec 4), s.params.Ok → sel.toNat ≤ 10 → ∃ v : Word,
    exec (.stat sel) s = .next { s with response := some { code := .value, value := v } } ∧
    (sel = 0#4 → s.cursorsOk →
      min ((s.w + 2 ^ s.params.cursorW - s.r) % 2 ^ s.params.cursorW) s.params.ringSlots < 2 ^ 32 →
      v.toNat = min ((s.w + 2 ^ s.params.cursorW - s.r) % 2 ^ s.params.cursorW) s.params.ringSlots) ∧
    (sel = 1#4 → v.toNat = s.w % 2 ^ 32) ∧
    (sel = 2#4 → v.toNat = s.r % 2 ^ 32) ∧
    (sel = 3#4 → v = s.lost) ∧
    (sel = 4#4 → v.toNat = s.rate.toNat) ∧
    (sel = 5#4 → v = s.reload) ∧
    (sel = 6#4 → v = s.activeReload) ∧
    (sel = 7#4 → v = s.tcount) ∧
    (sel = 8#4 → v.toNat = s.irqPending.toNat + 2 * s.bandLed.toNat + 4 * s.cmdAck.toNat +
      8 * s.discard.toNat) ∧
    (sel = 9#4 → v.toNat = s.lcur.toNat) ∧
    (sel = 10#4 → v.toNat = s.flen.toNat)

/-- R181 (exceptions): a selector in 11..15 is ERR_ILLEGAL. No word brings one to `exec`; the model's own
answer for a request written by hand (log 19). -/
def Obligations.StatIllegalSelector : Prop :=
  ∀ (s : State) (sel : BitVec 4), s.params.Ok → 11 ≤ sel.toNat →
    exec (.stat sel) s = .next { s with response := some { code := .errIllegal } }

/-! ### Timer -/

/-- R141: the word of TICK, and its effect. The count is stated where its value fits `tcount`, as it does
wherever `tcount ≤ active_reload` (R52 (ii)); past that see `HandBuiltStatesFault`. -/
def Obligations.TickAdvancesTimer : Prop :=
  (∀ req : Word, decodeBus req = .ok .tick ↔ req = 0x10000000#32) ∧
  ∀ s : State, s.params.Ok →
    (s.tcount = s.activeReload → exec .tick s = .next { s with
      tcount := 0#32, activeReload := s.reload, irqPending := true,
      response := some { code := .ok } }) ∧
    (s.tcount ≠ s.activeReload → s.tcount.toNat + 1 < 2 ^ 32 → ∃ t, exec .tick s = .next t ∧
      t.tcount.toNat = s.tcount.toNat + 1 ∧
      t = { s with tcount := t.tcount, response := some { code := .ok } })

/-- R142: from an expiry, whatever other requests come between, the count of TICKs is `tcount` up to the latched
`active_reload`, the flag is not set before, and the next TICK after them is the expiry. -/
def Obligations.ExpiryAfterReloadPlusOneTicks : Prop :=
  ∀ (s t : State) (l : List Instr), s.params.Ok → s.tcount = 0#32 → runAll l s = .next t →
    l.count .tick ≤ s.activeReload.toNat →
    t.tcount.toNat = l.count .tick ∧ t.activeReload = s.activeReload ∧
    (s.irqPending = false → t.irqPending = false) ∧
    (l.count .tick = s.activeReload.toNat → ∃ u, exec .tick t = .next u ∧
      u.tcount = 0#32 ∧ u.irqPending = true ∧ u.activeReload = t.reload)

/-- R143: only TICK sets `irq_pending`, and only ACQ clears it; so an expiry while it is set leaves it set. No
count of merged expiries is kept: an expiry leads to the same state whether the flag was set or not. -/
def Obligations.IrqPendingProtocol : Prop :=
  (∀ (i : Instr) (s t : State), exec i s = .next t →
    (s.irqPending = false → t.irqPending = true → i = .tick) ∧
    (s.irqPending = true → t.irqPending = false → ∃ v, i = .acq v)) ∧
  ∀ s : State, s.tcount = s.activeReload →
    exec .tick { s with irqPending := true } = exec .tick { s with irqPending := false }

/-- R140: within the accepted range the reload value fits its register, and a period lasts
`TIMER_CLK_HZ div n` TICKs. -/
def Obligations.ReloadValueFits : Prop :=
  ∀ (p : Params) (n : Nat), p.Ok → p.rateMin ≤ n → n ≤ p.rateMax →
    (reloadOf p n).toNat + 1 = p.timerClkHz / n

/-! ### Acquisition -/

/-- R202: ACQ with no pending expiry answers ERR_NOT_PENDING and changes nothing. -/
def Obligations.AcqWithoutPendingExpiry : Prop :=
  ∀ (s : State) (v : Sample), s.params.Ok → s.irqPending = false →
    exec (.acq v) s = .next { s with response := some { code := .errNotPending } }

/-- R144, R145: with a pending expiry ACQ emits ADC_START, inverts `band_led` on an out-of-band sample, does
what ENC of the sample does (`EncAppendsTwoSymbols`, `EncSealsFullFrame`), clears the flag and answers OK. -/
def Obligations.AcqServesOneSample : Prop :=
  ∀ (s : State) (v : Sample), s.params.Ok → s.irqPending = true → s.flen.toNat % 2 = 0 →
    s.flen.toNat ≤ s.params.frameCap - 3 →
    ∃ u, exec (.enc v) { s with
        events := s.events ++ [(s.stepNo, .adcStart)]
        bandLed := if s.params.bandHi < v.toNat ∨ v.toNat < s.params.bandLo then !s.bandLed
          else s.bandLed } = .next u ∧
      exec (.acq v) s = .next { u with irqPending := false, response := some { code := .ok } }

/-! ### Encoder -/

/-- R122, R121, R126: short of a full frame, ENC writes the two symbols at `flen` and `flen + 1`, adds 2 to
`flen`, and changes nothing else. -/
def Obligations.EncAppendsTwoSymbols : Prop :=
  ∀ (s : State) (v : Sample), s.params.Ok → s.arraysWf → s.flen.toNat % 2 = 0 →
    s.flen.toNat + 5 ≤ s.params.frameCap →
    ∃ t, exec (.enc v) s = .next t ∧
      t.flen.toNat = s.flen.toNat + 2 ∧
      s.params.alphabet[v.toNat % 64]? = some (Cells.read t.fbuf s.flen.toNat) ∧
      s.params.alphabet[v.toNat / 64 % 64]? = some (Cells.read t.fbuf (s.flen.toNat + 1)) ∧
      (∀ a, a ≠ s.flen.toNat → a ≠ s.flen.toNat + 1 → Cells.read t.fbuf a = Cells.read s.fbuf a) ∧
      t = { s with fbuf := t.fbuf, flen := t.flen }

/-- R122, R123, R100: the ENC that brings `flen` to `C − 1` stores its symbols, terminates the frame and
writes it into the ring in the same step; a fresh frame begins. -/
def Obligations.EncSealsFullFrame : Prop :=
  ∀ (s : State) (v : Sample), s.params.Ok → s.arraysWf → s.cursorsOk →
    s.flen.toNat + 3 = s.params.frameCap →
    ∀ base, base = s.w % s.params.ringSlots * s.params.frameCap →
    ∃ t, exec (.enc v) s = .next t ∧
      t.flen = 0#7 ∧
      (t.slotLength (s.w % s.params.ringSlots)).toNat = s.params.frameCap ∧
      (∀ i < s.flen.toNat, Cells.read t.slotBytes (base + i) = Cells.read s.fbuf i) ∧
      s.params.alphabet[v.toNat % 64]? = some (Cells.read t.slotBytes (base + s.flen.toNat)) ∧
      s.params.alphabet[v.toNat / 64 % 64]? =
        some (Cells.read t.slotBytes (base + s.flen.toNat + 1)) ∧
      Cells.read t.slotBytes (base + s.params.frameCap - 1) = s.params.term ∧
      (∀ i < s.params.frameCap, Cells.read t.fbuf i = Cells.read t.slotBytes (base + i)) ∧
      (∀ k, k ≠ s.w % s.params.ringSlots → t.slotLength k = s.slotLength k) ∧
      (∀ a, a < base ∨ base + s.params.frameCap ≤ a →
        Cells.read t.slotBytes a = Cells.read s.slotBytes a) ∧
      (∀ a, s.params.frameCap ≤ a → Cells.read t.fbuf a = Cells.read s.fbuf a) ∧
      t.w = (s.w + 1) % 2 ^ s.params.cursorW ∧
      t.lost = (if s.params.ringSlots ≤
        (s.w + 2 ^ s.params.cursorW - s.r) % 2 ^ s.params.cursorW then s.lost + 1#32 else s.lost) ∧
      t.events = s.events ++ [(s.stepNo, .sealed s.w)] ∧
      t = { s with
        fbuf := t.fbuf, flen := t.flen, slotLen := t.slotLen, slotBytes := t.slotBytes, w := t.w
        lost := t.lost, events := t.events }

/-- R123, R85: the ENC that brings `flen` to `C − 1` is the RB_WRITE of length C of the terminated frame, in the same
step, and a fresh frame after it. -/
def Obligations.SealIsRbWriteOfTheFrame : Prop :=
  ∀ (s : State) (v : Sample), s.params.Ok → s.flen.toNat + 3 = s.params.frameCap →
    ∃ u, exec (.rbWrite (BitVec.ofNat 7 s.params.frameCap)) { s with
        fbuf := Cells.write (Cells.writeN (n := 8) s.fbuf s.flen.toNat (sym s.params v))
          (s.params.frameCap - 1) s.params.term } = .next u ∧
      exec (.enc v) s = .next { u with flen := 0#7 }

/-- R122, R203: ENC with `flen` odd or above `C − 3` is the model fault EncoderState, and no other ENC is. -/
def Obligations.EncoderStateFaultExactly : Prop :=
  ∀ (s : State) (v : Sample), s.params.Ok →
    (exec (.enc v) s = .fault (.encoderState s.flen) ↔
      s.params.frameCap - 3 < s.flen.toNat ∨ s.flen.toNat % 2 = 1)

/-- R124, R125: from an empty frame, S samples seal exactly one frame, of length C: the samples' symbols in
order, then TERM; fewer than S seal none. -/
def Obligations.SealedFrameFormat : Prop :=
  ∀ (s : State) (vs : List Sample), s.params.Ok → s.arraysWf → s.flen = 0#7 →
    (vs.length < s.params.samplesPerFrame → ∃ t, runAll (vs.map .enc) s = .next t ∧
      t.flen.toNat = 2 * vs.length ∧ t.w = s.w ∧ t.events = s.events ∧
      t.slotLen = s.slotLen ∧ t.slotBytes = s.slotBytes) ∧
    (vs.length = s.params.samplesPerFrame → ∃ t, runAll (vs.map .enc) s = .next t ∧
      t.flen = 0#7 ∧ t.w = (s.w + 1) % 2 ^ s.params.cursorW ∧
      t.events = s.events ++ [(s.stepNo, .sealed s.w)] ∧
      (t.slotLength (s.w % s.params.ringSlots)).toNat = s.params.frameCap ∧
      t.slotData (s.w % s.params.ringSlots) =
        (vs.flatMap fun v =>
          [s.params.alphabet.getD (v.toNat % 64) 0#8, s.params.alphabet.getD (v.toNat / 64 % 64) 0#8])
          ++ [s.params.term])

/-- R120, R121: a sample's two symbols determine its low 12 bits, and neither is the frame's terminator. -/
def Obligations.SymbolsDetermineLowBits : Prop :=
  ∀ (p : Params) (u v : Sample), p.Ok →
    (sym p u = sym p v ↔ u.toNat % 4096 = v.toNat % 4096) ∧ p.term ∉ sym p v

/-! ### Ring -/

/-- R100, R203: RB_WRITE copies the C bytes of the frame under construction and the length into slot
`w mod N`, counts a loss when the ring is full, emits SEALED(w) and advances `w`; it changes nothing else. A
length above C is the model fault BadFrameLength. -/
def Obligations.RbWriteWritesOneSlot : Prop :=
  ∀ (s : State) (len : FrameLen), s.params.Ok → s.arraysWf → s.cursorsOk →
    ∀ base, base = s.w % s.params.ringSlots * s.params.frameCap →
    (len.toNat ≤ s.params.frameCap → ∃ t, exec (.rbWrite len) s = .next t ∧
      t.slotLength (s.w % s.params.ringSlots) = len ∧
      (∀ i < s.params.frameCap, Cells.read t.slotBytes (base + i) = Cells.read s.fbuf i) ∧
      (∀ k, k ≠ s.w % s.params.ringSlots → t.slotLength k = s.slotLength k) ∧
      (∀ a, a < base ∨ base + s.params.frameCap ≤ a →
        Cells.read t.slotBytes a = Cells.read s.slotBytes a) ∧
      t.w = (s.w + 1) % 2 ^ s.params.cursorW ∧
      t.lost = (if s.params.ringSlots ≤
        (s.w + 2 ^ s.params.cursorW - s.r) % 2 ^ s.params.cursorW then s.lost + 1#32 else s.lost) ∧
      t.events = s.events ++ [(s.stepNo, .sealed s.w)] ∧
      t = { s with
        slotLen := t.slotLen, slotBytes := t.slotBytes, w := t.w, lost := t.lost
        events := t.events }) ∧
    (s.params.frameCap < len.toNat → exec (.rbWrite len) s = .fault (.badFrameLength len))

/-- R106: POP of an empty ring answers EMPTY and changes nothing. -/
def Obligations.PopEmptyChangesNothing : Prop :=
  ∀ s : State, s.params.Ok → s.cursorsOk → s.w = s.r →
    exec .pop s = .next { s with response := some { code := .empty } }

/-- R101: POP catches up to `w − N` when more than N frames are outstanding, answers the frame of the slot it
then reads, with its length, and moves `r` past it; it changes nothing else. -/
def Obligations.PopReturnsOldestFrame : Prop :=
  ∀ (s : State) (d c : Nat), s.params.Ok → s.cursorsOk →
    d = (s.w + 2 ^ s.params.cursorW - s.r) % 2 ^ s.params.cursorW → d ≠ 0 →
    c = (if s.params.ringSlots < d then
      (s.w + 2 ^ s.params.cursorW - s.params.ringSlots) % 2 ^ s.params.cursorW else s.r) →
    (s.slotLength (c % s.params.ringSlots)).toNat ≤ s.params.frameCap →
    exec .pop s = .next { s with
      r := (c + 1) % 2 ^ s.params.cursorW
      response := some {
        code := .frame
        value := BitVec.ofNat 32 (s.slotLength (c % s.params.ringSlots)).toNat
        data := (List.range (s.slotLength (c % s.params.ringSlots)).toNat).map fun i =>
          Cells.read s.slotBytes (c % s.params.ringSlots * s.params.frameCap + i) } }

/-- R52 (vi), R102: a POP that returns a frame lowers the readable count by one, and leaves at most N − 1
frames outstanding. -/
def Obligations.PopLowersReadableCount : Prop :=
  ∀ s : State, s.params.Ok → s.cursorsOk → s.w ≠ s.r →
    (∀ k, (s.slotLength k).toNat ≤ s.params.frameCap) →
    ∃ t, exec .pop s = .next t ∧ t.count + 1 = s.count ∧ t.distance < s.params.ringSlots

/-- R102: the readable count is the number of FRAME responses before the first EMPTY. -/
def Obligations.ReadableCountIsPopsBeforeEmpty : Prop :=
  ∀ s : State, s.params.Ok → s.cursorsOk →
    (∀ k, (s.slotLength k).toNat ≤ s.params.frameCap) →
    ∃ frames : List Response,
      popResponses (s.count + 1) s = frames.map some ++ [some { code := .empty }] ∧
      frames.length = s.count ∧ ∀ f ∈ frames, f.code = .frame

/-- R104, R105: from an empty ring, n frames produced before any read, within the aliasing bound of R225, leave
the newest min(n, N) readable in production order, then EMPTY; `lost` rises by the n − N others. -/
def Obligations.LossyOverflowKeepsNewestFrames : Prop :=
  ∀ (s : State) (frames : List (List Byte)), s.params.Ok → s.arraysWf → s.cursorsOk → s.w = s.r →
    (∀ f ∈ frames, f.length = s.params.frameCap) →
    frames.length ≤ 2 ^ s.params.cursorW - s.params.ringSlots →
    ∃ t, produceAll frames s = .next t ∧
      t.lost.toNat = (s.lost.toNat + (frames.length - s.params.ringSlots)) % 2 ^ 32 ∧
      popResponses (min frames.length s.params.ringSlots + 1) t =
        ((frames.drop (frames.length - s.params.ringSlots)).map fun f => some (frameOf f)) ++
          [some { code := .empty }]

/-! ### Command parser -/

/-- R160, R165: a byte that ends no line is dropped after an overflow, stored at `lcur` while there is room,
and otherwise starts the overflow. -/
def Obligations.RxbStoresOrDropsCharacter : Prop :=
  ∀ (s : State) (b : Byte), s.params.Ok → Memory.wf s.lbuf → b ≠ 0x0A#8 → b ≠ 0x0D#8 →
    (s.discard = true → exec (.rxb b) s = .next { s with response := some { code := .ok } }) ∧
    (s.discard = false → s.lcur.toNat < s.params.lineCap → ∃ t, exec (.rxb b) s = .next t ∧
      t.lcur.toNat = s.lcur.toNat + 1 ∧ Cells.read t.lbuf s.lcur.toNat = b ∧
      (∀ a, a ≠ s.lcur.toNat → Cells.read t.lbuf a = Cells.read s.lbuf a) ∧
      t = { s with lbuf := t.lbuf, lcur := t.lcur, response := some { code := .ok } }) ∧
    (s.discard = false → s.params.lineCap ≤ s.lcur.toNat → exec (.rxb b) s = .next { s with
      lcur := 0#6, discard := true, response := some { code := .ok } })

/-- R160, R162, R163, R164: a terminator after a line of digits whose value lies in the accepted range sets
`rate` and `reload`, inverts `cmd_ack`, empties the line and changes nothing else. -/
def Obligations.RxbAppliesAcceptedLine : Prop :=
  ∀ (s : State) (b : Byte) (n : Nat), s.params.Ok → b = 0x0A#8 ∨ b = 0x0D#8 → s.discard = false →
    1 ≤ s.lcur.toNat → s.lcur.toNat ≤ s.params.lineCap →
    (∀ i < s.lcur.toNat, 0x30 ≤ (Cells.read s.lbuf i).toNat ∧ (Cells.read s.lbuf i).toNat ≤ 0x39) →
    n = ∑ i ∈ Finset.range s.lcur.toNat,
      ((Cells.read s.lbuf i).toNat - 0x30) * 10 ^ (s.lcur.toNat - 1 - i) →
    s.params.rateMin ≤ n → n ≤ s.params.rateMax →
    ∃ t, exec (.rxb b) s = .next t ∧
      t.rate.toNat = n ∧ t.reload.toNat = s.params.timerClkHz / n - 1 ∧
      t = { s with
        rate := t.rate, reload := t.reload, cmdAck := !s.cmdAck, lcur := 0#6, discard := false
        response := some { code := .ok } }

/-- R160, R162, R163, R165: a terminator after an overflowed line, an empty line, a line with a byte that is
no digit, or a line whose value is out of range empties the line and changes nothing else. -/
def Obligations.RxbDiscardsRejectedLine : Prop :=
  ∀ (s : State) (b : Byte), s.params.Ok → b = 0x0A#8 ∨ b = 0x0D#8 →
    (s.discard = true ∨ s.lcur.toNat ≤ s.params.lineCap ∧
      (s.lcur = 0#6 ∨
      (∃ i < s.lcur.toNat, (Cells.read s.lbuf i).toNat < 0x30 ∨ 0x39 < (Cells.read s.lbuf i).toNat) ∨
      ∃ n, n = (∑ i ∈ Finset.range s.lcur.toNat,
          ((Cells.read s.lbuf i).toNat - 0x30) * 10 ^ (s.lcur.toNat - 1 - i)) ∧
        (n < s.params.rateMin ∨ s.params.rateMax < n))) →
    exec (.rxb b) s = .next { s with
      lcur := 0#6, discard := false, response := some { code := .ok } }

/-- R169, generalised from its examples to every rate and every parameter set: the decimal digits of an
accepted rate, then a terminator, set that rate. The running period is not touched (R149). -/
def Obligations.RateCommandSetsRate : Prop :=
  ∀ (s : State) (n : Nat) (b : Byte), s.params.Ok → s.arraysWf → b = 0x0A#8 ∨ b = 0x0D#8 →
    s.discard = false → s.lcur = 0#6 → s.params.rateMin ≤ n → n ≤ s.params.rateMax →
    (Nat.digits 10 n).length ≤ s.params.lineCap →
    ∃ t, runAll (((Nat.digits 10 n).reverse.map fun d => .rxb (BitVec.ofNat 8 (0x30 + d))) ++
        [.rxb b]) s = .next t ∧
      t.rate.toNat = n ∧ t.reload.toNat = s.params.timerClkHz / n - 1 ∧
      t.cmdAck = (!s.cmdAck) ∧ t.lcur = 0#6 ∧ t.discard = false ∧
      t.activeReload = s.activeReload ∧ t.tcount = s.tcount

/-- R165: a line of more than LINE_CAP characters is dropped as a whole: its terminator applies nothing, and
the next line starts afresh. -/
def Obligations.OverflowedLineAppliesNothing : Prop :=
  ∀ (s : State) (line : List Byte) (b : Byte), s.params.Ok → b = 0x0A#8 ∨ b = 0x0D#8 →
    s.discard = false → s.lcur.toNat ≤ s.params.lineCap →
    (∀ c ∈ line, c ≠ 0x0A#8 ∧ c ≠ 0x0D#8) → s.params.lineCap < s.lcur.toNat + line.length →
    ∃ t, runAll (line.map .rxb ++ [.rxb b]) s = .next t ∧
      t = { s with
        lbuf := t.lbuf, lcur := 0#6, discard := false, response := some { code := .ok } }

/-- R170: no sequence of RXB and RXDONE faults, writes outside the line buffer or leaves `rate` outside its
range. -/
def Obligations.ParserNeverFaults : Prop :=
  ∀ (s : State) (l : List Instr), s.Inv → (∀ i ∈ l, i = .rxdone ∨ ∃ b, i = .rxb b) →
    ∃ t, runAll l s = .next t ∧ Cells.within (n := 8) t.lbuf t.params.lineCap ∧
      t.params = s.params ∧ t.params.rateMin ≤ t.rate.toNat ∧ t.rate.toNat ≤ t.params.rateMax

/-- R166: the word of RXDONE; it emits RX_REARM, answers OK and changes no register, so the pending line is
kept. -/
def Obligations.RxdoneRearmsTransport : Prop :=
  (∀ req : Word, decodeBus req = .ok .rxdone ↔ req = 0x50000000#32) ∧
  ∀ s : State, s.params.Ok → exec .rxdone s = .next { s with
    events := s.events ++ [(s.stepNo, .rxRearm)], response := some { code := .ok } }

/-! ### Encoding -/

/-- R80-R85: decoding the word of a well-formed request, on the path that carries it, gives the request. -/
def Obligations.DecodeOfEncode : Prop :=
  ∀ i : Instr, i.wellFormed = true → decodeOn i.path (encode i) = .ok i

/-- R82, R86, R87: a word that decodes to a request is that request's only word, so every reserved bit, every
reserved opcode and every internal opcode on the bus is refused. -/
def Obligations.EncodeOfDecode : Prop :=
  ∀ (p : Path) (req : Word) (i : Instr), decodeOn p req = .ok i →
    i.wellFormed = true ∧ i.path = p ∧ encode i = req

/-- R87: words written out from the tables of R81 and R84 (95_test_vectors.md V-D). -/
def Obligations.SampleWordsDecode : Prop :=
  decodeBus 0x00000000#32 = .ok .nop ∧ decodeBus 0x10000000#32 = .ok .tick ∧
  decodeBus 0x20000FFF#32 = .ok (.acq 0x0FFF#16) ∧ decodeBus 0x30000000#32 = .ok .pop ∧
  decodeBus 0x4000000A#32 = .ok (.rxb 0x0A#8) ∧ decodeBus 0x50000000#32 = .ok .rxdone ∧
  decodeBus 0x6000000A#32 = .ok (.stat 10#4) ∧
  decodeInternal 0x8000003F#32 = .ok (.rbWrite 63#7) ∧
  decodeInternal 0x90000123#32 = .ok (.enc 0x0123#16)

/-- R82, R85, R86, R201: a bus word with a reserved opcode, an internal opcode, a non-zero reserved bit or a STAT
selector in 11..15 completes with ERR_ILLEGAL; nothing of the block changes. -/
def Obligations.IllegalBusWordsAreAnswered : Prop :=
  ∀ (s : State) (rest : List Input) (req : Word) (op low : Nat), s.params.Ok →
    s.inputs = .request req :: rest → op = req.toNat / 2 ^ 28 → low = req.toNat % 2 ^ 28 →
    (op = 0 ∧ low ≠ 0 ∨ op = 1 ∧ low ≠ 0 ∨ op = 2 ∧ 2 ^ 16 ≤ low ∨ op = 3 ∧ low ≠ 0 ∨
      op = 4 ∧ 2 ^ 8 ≤ low ∨ op = 5 ∧ low ≠ 0 ∨ op = 6 ∧ 11 ≤ low ∨ 7 ≤ op) →
    ∃ t, step s = .next t ∧ t.response = some { code := .errIllegal } ∧ s.sameBlock t

/-- R88: the six code numbers; the response word is the code above zeros, with the length in bits 6:0 for FRAME;
after it come the data bytes for FRAME, the value word for VALUE, and otherwise nothing. -/
def Obligations.ResponseWordLayout : Prop :=
  (RespCode.ok.bits = 0x0#4 ∧ RespCode.empty.bits = 0x1#4 ∧ RespCode.frame.bits = 0x2#4 ∧
    RespCode.value.bits = 0x3#4 ∧ RespCode.errNotPending.bits = 0xD#4 ∧
    RespCode.errIllegal.bits = 0xE#4) ∧
  ∀ resp : Response,
    resp.header.toNat = resp.code.bits.toNat * 2 ^ 28 +
      (if resp.code = .frame then resp.value.toNat % 128 else 0) ∧
    resp.tail = (if resp.code = .frame then .bytes resp.data
      else if resp.code = .value then .word resp.value else .nothing)

/-! ### The step -/

/-- R11, R12: when the next input is a word that decodes to a request, the step is that request's meaning. The
model's own additions: the word leaves the inputs, the response of the step before is cleared, the step is
numbered (log 5, 7, 8). -/
def Obligations.StepRunsDecodedRequest : Prop :=
  ∀ (s : State) (rest : List Input) (req : Word) (i : Instr),
    s.inputs = .request req :: rest → decodeBus req = .ok i →
    step s = exec i { s with inputs := rest, response := none, stepNo := s.stepNo + 1 }

/-- R85, R107, R127, R211: whatever word is presented, a step that is not an ACQ leaves alone all that ENC, SEAL and
RB_WRITE write, so those requests take effect only inside the ACQ step; and only a POP moves `r`. -/
def Obligations.OnlyAcqStepsEncodeAndWriteTheRing : Prop :=
  ∀ (s t : State) (rest : List Input) (req : Word), s.inputs = .request req :: rest → step s = .next t →
    ((∀ v, decodeBus req ≠ .ok (.acq v)) → t.slotLen = s.slotLen ∧ t.slotBytes = s.slotBytes ∧ t.w = s.w ∧
      t.lost = s.lost ∧ t.fbuf = s.fbuf ∧ t.flen = s.flen ∧ t.bandLed = s.bandLed) ∧
    (decodeBus req ≠ .ok .pop → t.r = s.r)

/-- R12: with nothing presented no agent steps: the model's step changes nothing (log 5). -/
def Obligations.StepWithoutInputWaits : Prop :=
  ∀ s : State, s.params.Ok → s.inputs = [] → step s = .next s

/-- R12, R88: every bus word that completes gets a response in its step. -/
def Obligations.EveryBusWordIsAnswered : Prop :=
  ∀ (s t : State) (rest : List Input) (req : Word), s.inputs = .request req :: rest →
    step s = .next t → t.response.isSome = true

/-- R204: of the well-formed requests only ACQ reports an error, ERR_NOT_PENDING, when no expiry is pending,
and then nothing changes. -/
def Obligations.OnlyAcqReportsError : Prop :=
  ∀ (i : Instr) (s t : State) (resp : Response), i.wellFormed = true → s.response = none →
    exec i s = .next t → t.response = some resp →
    resp.code = .errNotPending ∨ resp.code = .errIllegal →
    (∃ v, i = .acq v) ∧ resp = { code := .errNotPending } ∧ s.irqPending = false ∧ s.sameBlock t

/-- R206: a word's place is the number its request has in the list of R206; the requests of one clock cycle are
presented all, each once, in the order of their places. By the model's own choice (log 16) ILLEGAL words stand
last, and words of one place keep the order given. -/
def Obligations.CommitOrderSorts : Prop :=
  (∀ req : Word,
    (decodeBus req = .ok .tick → commitRank req + 1 = 1) ∧
    (∀ v, decodeBus req = .ok (.acq v) → commitRank req + 1 = 2) ∧
    (decodeBus req = .ok .pop → commitRank req + 1 = 3) ∧
    (∀ b, decodeBus req = .ok (.rxb b) → commitRank req + 1 = 4) ∧
    (decodeBus req = .ok .rxdone → commitRank req + 1 = 5) ∧
    (∀ sel, decodeBus req = .ok (.stat sel) → commitRank req + 1 = 6) ∧
    (decodeBus req = .ok .nop → commitRank req + 1 = 6) ∧
    (∀ e, decodeBus req = .error e → commitRank req + 1 = 7)) ∧
  ∀ reqs : List Word, (commitOrder reqs).Perm reqs ∧
    ((commitOrder reqs).Pairwise fun a b => commitRank a ≤ commitRank b) ∧
    ∀ k, (commitOrder reqs).filter (commitRank · == k) = reqs.filter (commitRank · == k)

/-- R203, R6: under a parameter set that breaks a constraint nothing has a meaning but the fault BadConfig. R203 has
the check made once, when the model is built; that every step and every meaning makes it is the model's own choice
(log 15, DEDUCED). -/
def Obligations.BadConfigFaults : Prop :=
  ∀ s : State, ¬ s.params.Ok →
    step s = .fault .badConfig ∧ ∀ i, exec i s = .fault .badConfig

/-- The states in which a well-formed request stops though its rule names no such case, all of them outside R52:
a count that does not fit `tcount` (R9), a slot longer than its bytes (R30), a line longer than its buffer
(R44); and ACQ's share of the fault of ENC (R122). The stops at arrays and registers are the model's reading
(log 10, 11). -/
def Obligations.HandBuiltStatesFault : Prop :=
  ∀ s : State, s.params.Ok →
    (s.tcount ≠ s.activeReload → s.tcount.toNat = 2 ^ 32 - 1 →
      exec .tick s = .fault (.registerRange (2 ^ 32))) ∧
    (∀ c, s.cursorsOk → s.w ≠ s.r →
      c = (if s.params.ringSlots < (s.w + 2 ^ s.params.cursorW - s.r) % 2 ^ s.params.cursorW then
        (s.w + 2 ^ s.params.cursorW - s.params.ringSlots) % 2 ^ s.params.cursorW else s.r) →
      s.params.frameCap < (s.slotLength (c % s.params.ringSlots)).toNat →
      exec .pop s = .fault (.noSuchByte s.params.frameCap)) ∧
    (∀ b : Byte, b = 0x0A#8 ∨ b = 0x0D#8 → s.discard = false → s.params.lineCap < s.lcur.toNat →
      exec (.rxb b) s = .fault (.noSuchByte s.params.lineCap)) ∧
    (∀ v : Sample, s.irqPending = true →
      s.params.frameCap - 3 < s.flen.toNat ∨ s.flen.toNat % 2 = 1 →
      exec (.acq v) s = .fault (.encoderState s.flen))

/-! ### Reset -/

/-- R220, R213: the reset input puts every register at its reset value in one step. Of the arrays, which R220
leaves unspecified, nothing is said. -/
def Obligations.ResetInputRestoresResetValues : Prop :=
  ∀ (s : State) (rest : List Input), s.params.Ok → s.inputs = .reset :: rest →
    ∃ t, step s = .next t ∧ t.params = s.params ∧ t.w = 0 ∧ t.r = 0 ∧ t.lost = 0#32 ∧ t.flen = 0#7 ∧
      t.rate.toNat = s.params.resetRate ∧
      t.reload.toNat = s.params.timerClkHz / s.params.resetRate - 1 ∧
      t.activeReload = t.reload ∧ t.tcount = 0#32 ∧ t.irqPending = false ∧ t.bandLed = false ∧
      t.cmdAck = false ∧ t.discard = false ∧ t.lcur = 0#6 ∧ t.events = []

/-- R220, R52: the state after reset satisfies the invariant, for every legal parameter set. -/
def Obligations.ResetSatisfiesInvariant : Prop :=
  ∀ p : Params, p.Ok → (State.resetOf p).Inv

/-- The same for `State.reset`, whose parameter set is the model's choice where R6 leaves it open (log 2). -/
def Obligations.StateResetSatisfiesInvariant : Prop :=
  State.reset.Inv ∧ State.reset.inputs = []

/-! ### Invariants and whole-machine rules -/

/-- R52 (i) to (v), with the form of the data: kept by every step, from every state that satisfies them, whatever
is presented. -/
def Obligations.StepKeepsInvariant : Prop :=
  ∀ s t : State, s.Inv → step s = .next t → t.Inv

/-- R12, R203: in such a state every step completes. -/
def Obligations.StepCompletesUnderInvariant : Prop :=
  ∀ s : State, s.Inv → ∃ t, step s = .next t

/-- R203: no run from reset faults, whatever is presented, in whatever order (R11), for every legal parameter
set. -/
def Obligations.RunFromResetNeverFaults : Prop :=
  ∀ (p : Params) (ins : List Input) (k : Nat), p.Ok →
    ∃ t, Host.Core.run Sys2Proof.core k { State.resetOf p with inputs := ins } = .next t

/-- The canonical form of the arrays is kept by every step, from every state that has it. -/
def Obligations.StepKeepsArraysCanonical : Prop :=
  ∀ s t : State, s.arraysWf → step s = .next t → t.arraysWf

/-- R47: the event history only grows, and what a request adds bears its step's number. -/
def Obligations.EventsAppendOnly : Prop :=
  ∀ (i : Instr) (s t : State), exec i s = .next t →
    ∃ es, t.events = s.events ++ es ∧ ∀ e ∈ es, e.1 = s.stepNo

/-- R51: every register and array has one writing agent; `irq_pending` is set only by TIMER and cleared only by
ACQ. -/
def Obligations.SingleWriterOwnership : Prop :=
  ∀ (i : Instr) (s t : State), exec i s = .next t →
    (issuerOf i ≠ .acq → t.slotLen = s.slotLen ∧ t.slotBytes = s.slotBytes ∧ t.w = s.w ∧
      t.lost = s.lost ∧ t.fbuf = s.fbuf ∧ t.flen = s.flen ∧ t.bandLed = s.bandLed) ∧
    (issuerOf i ≠ .consumer → t.r = s.r) ∧
    (issuerOf i ≠ .timer → t.tcount = s.tcount ∧ t.activeReload = s.activeReload) ∧
    (issuerOf i ≠ .parser → t.rate = s.rate ∧ t.reload = s.reload ∧ t.lbuf = s.lbuf ∧
      t.lcur = s.lcur ∧ t.discard = s.discard ∧ t.cmdAck = s.cmdAck) ∧
    (s.irqPending = false → t.irqPending = true → issuerOf i = .timer) ∧
    (s.irqPending = true → t.irqPending = false → issuerOf i = .acq) ∧
    t.params = s.params ∧ t.inputs = s.inputs ∧ t.stepNo = s.stepNo
end

