-- ==== Sys2Proof/Laws/Config.lean ====
section
/-! SUPPORT. Facts about the parameters. -/

namespace Sys2Proof

theorem noRepeats_iff (bs : List Byte) (seen : Nat) :
    noRepeats seen bs = true ↔ bs.Nodup ∧ ∀ b ∈ bs, seen.testBit b.toNat = false := by
  induction bs generalizing seen with
  | nil => simp [noRepeats]
  | cons b bs ih =>
    have hbit : ∀ c : Byte, (seen ||| 1 <<< b.toNat).testBit c.toNat =
        (seen.testBit c.toNat || decide (b = c)) := by
      intro c
      rw [Nat.testBit_or, Nat.one_shiftLeft, Nat.testBit_two_pow]
      simp [BitVec.toNat_inj]
    simp only [noRepeats, Bool.and_eq_true, Bool.not_eq_true', ih, hbit, Bool.or_eq_false_iff,
      decide_eq_false_iff_not, List.nodup_cons, List.mem_cons, forall_eq_or_imp]
    constructor
    · rintro ⟨h1, h2, h3⟩
      exact ⟨⟨fun h => (h3 b h).2 rfl, h2⟩, h1, fun c hc => (h3 c hc).1⟩
    · rintro ⟨⟨h1, h2⟩, h3, h4⟩
      exact ⟨h3, h2, fun c hc => ⟨h4 c hc, fun h => h1 (h ▸ hc)⟩⟩

theorem noRepeats_iff_nodup (bs : List Byte) : noRepeats 0 bs = true ↔ bs.Nodup := by
  simp [noRepeats_iff]

end Sys2Proof
end

