-- ==== Sys2Proof/Laws/Decode.lean ====
section
/-! SUPPORT. The fields of a word as numbers, for proofs about decoding and encoding. -/

namespace Sys2Proof

/-- Concatenation as arithmetic. -/
theorem toNat_append_add {m n : Nat} (x : BitVec m) (y : BitVec n) :
    (x ++ y).toNat = x.toNat * 2 ^ n + y.toNat := by
  rw [BitVec.toNat_append, ← Nat.shiftLeft_add_eq_or_of_lt y.isLt, Nat.shiftLeft_eq]

/-- A field as arithmetic (R8). -/
theorem toNat_field (w : Word) (lo len : Nat) :
    (w.extractLsb' lo len).toNat = w.toNat / 2 ^ lo % 2 ^ len := by
  rw [BitVec.extractLsb'_toNat, Nat.shiftRight_eq_div_pow]

theorem opField_toNat (w : Word) : (opField w).toNat = w.toNat / 2 ^ 28 := by
  have := w.isLt
  rw [opField, toNat_field]
  omega

/-- A field is zero exactly when its number is. -/
theorem field_eq_zero (w : Word) (lo len : Nat) :
    w.extractLsb' lo len = 0#len ↔ w.toNat / 2 ^ lo % 2 ^ len = 0 := by
  rw [← BitVec.toNat_inj, toNat_field]
  simp

/-- The request interface gives bus requests only: never RB_WRITE, never ENC (R85). -/
theorem decodeBus_path {req : Word} {i : Instr} (h : decodeBus req = .ok i) : i.path = .bus := by
  unfold decodeBus decodeF0 decodeFS decodeFB decodeFSEL at h
  split at h <;> (repeat' split at h) <;> (cases h; try rfl)

end Sys2Proof
end

