-- ==== Sys2Proof/Laws/Memory.lean ====
section
/-! SUPPORT. The laws of the byte arrays: read after write, and the canonical form kept by every operation. -/

namespace Sys2Proof.Machine

variable {n : Nat}

@[simp] theorem Cells.read_nil (a : Nat) : Cells.read ([] : Cells n) a = unwritten n := rfl

theorem Cells.read_cons (k : Nat) (v : BitVec n) (rest : Cells n) (a : Nat) :
    Cells.read ((k, v) :: rest) a = if k = a then v else Cells.read rest a := rfl

@[simp] theorem Cells.writeN_nil (m : Cells n) (i : Nat) : Cells.writeN m i [] = m := rfl

theorem Cells.writeN_cons (m : Cells n) (i : Nat) (b : BitVec n) (bs : List (BitVec n)) :
    Cells.writeN m i (b :: bs) = Cells.writeN (Cells.write m i b) (i + 1) bs := rfl

@[simp] theorem Cells.readN_length (m : Cells n) (i count : Nat) :
    (Cells.readN m i count).length = count := by
  simp [Cells.readN]

theorem Cells.readN_getElem? (m : Cells n) (i count j : Nat) (h : j < count) :
    (Cells.readN m i count)[j]? = some (Cells.read m (i + j)) := by
  simp [Cells.readN, h]

theorem Cells.readN_congr {m m' : Cells n} {i i' count : Nat}
    (h : ∀ j < count, Cells.read m (i + j) = Cells.read m' (i' + j)) :
    Cells.readN m i count = Cells.readN m' i' count := by
  unfold Cells.readN
  exact List.map_congr_left fun j hj => h j (List.mem_range.mp hj)

/-! ### Reading a canonical array -/

theorem Cells.wf_tail {c : Nat × BitVec n} {rest : Cells n} (h : Cells.wf (c :: rest)) :
    Cells.wf rest :=
  ⟨(List.pairwise_cons.mp h.1).2, fun d hd => h.2 d (List.mem_cons_of_mem _ hd)⟩

/-- An index below every listed index is unwritten. -/
theorem Cells.read_of_below {m : Cells n} {a : Nat} (h : ∀ c ∈ m, a < c.1) :
    Cells.read m a = unwritten n := by
  induction m with
  | nil => rfl
  | cons c rest ih =>
    obtain ⟨k, v⟩ := c
    have hk : a < k := h (k, v) (by simp)
    rw [Cells.read_cons, if_neg (by omega)]
    exact ih fun d hd => h d (List.mem_cons_of_mem _ hd)

theorem Cells.read_cons_below {a : Nat} {b : BitVec n} {rest : Cells n} (x : Nat)
    (h : ∀ c ∈ rest, a < c.1) :
    Cells.read (Cells.cons a b rest) x = if a = x then b else Cells.read rest x := by
  unfold Cells.cons
  split
  · next hb =>
    subst hb
    split
    · next hx => subst hx; exact Cells.read_of_below h
    · rfl
  · rfl

/-- Read after write: the value written at its index, every other index as before. -/
theorem Cells.read_write {m : Cells n} (hm : Cells.wf m) (a : Nat) (b : BitVec n) (x : Nat) :
    Cells.read (Cells.write m a b) x = if a = x then b else Cells.read m x := by
  induction m with
  | nil => exact Cells.read_cons_below x (by simp)
  | cons c rest ih =>
    obtain ⟨k, v⟩ := c
    have hk : ∀ d ∈ rest, k < d.1 := (List.pairwise_cons.mp hm.1).1
    unfold Cells.write
    split
    · next h =>
      refine Cells.read_cons_below x fun d hd => ?_
      rcases List.mem_cons.mp hd with rfl | hd
      · exact h
      · exact lt_trans h (hk d hd)
    · split
      · next h =>
        subst h
        rw [Cells.read_cons_below x hk, Cells.read_cons]
        split <;> rfl
      · next h1 h2 =>
        rw [Cells.read_cons, Cells.read_cons, ih (Cells.wf_tail hm)]
        split
        · next hx => rw [if_neg (by omega)]
        · rfl

/-! ### The canonical form is kept -/

theorem Cells.mem_cons_of_mem_cons {a : Nat} {b : BitVec n} {rest : Cells n} {c : Nat × BitVec n}
    (h : c ∈ Cells.cons a b rest) : c = (a, b) ∨ c ∈ rest := by
  unfold Cells.cons at h
  split at h
  · exact .inr h
  · exact List.mem_cons.mp h

theorem Cells.mem_write {m : Cells n} {a : Nat} {b : BitVec n} {c : Nat × BitVec n}
    (h : c ∈ Cells.write m a b) : c = (a, b) ∨ c ∈ m := by
  induction m with
  | nil => exact Cells.mem_cons_of_mem_cons h
  | cons d rest ih =>
    obtain ⟨k, v⟩ := d
    unfold Cells.write at h
    split at h
    · exact Cells.mem_cons_of_mem_cons h
    · split at h
      · exact (Cells.mem_cons_of_mem_cons h).imp_right (List.mem_cons_of_mem _)
      · rcases List.mem_cons.mp h with rfl | h
        · exact .inr (by simp)
        · exact (ih h).imp_right (List.mem_cons_of_mem _)

theorem Cells.wf_nil : Cells.wf ([] : Cells n) := ⟨List.Pairwise.nil, by simp⟩

theorem Cells.wf_cons {a : Nat} {b : BitVec n} {rest : Cells n} (hr : Cells.wf rest)
    (h : ∀ c ∈ rest, a < c.1) : Cells.wf (Cells.cons a b rest) := by
  unfold Cells.cons
  split
  · exact hr
  · next hb =>
    exact ⟨List.pairwise_cons.mpr ⟨h, hr.1⟩, fun c hc => by
      rcases List.mem_cons.mp hc with rfl | hc
      · exact hb
      · exact hr.2 c hc⟩

theorem Cells.wf_write {m : Cells n} (hm : Cells.wf m) (a : Nat) (b : BitVec n) :
    Cells.wf (Cells.write m a b) := by
  induction m with
  | nil => exact Cells.wf_cons Cells.wf_nil (by simp)
  | cons c rest ih =>
    obtain ⟨k, v⟩ := c
    have hk : ∀ d ∈ rest, k < d.1 := (List.pairwise_cons.mp hm.1).1
    have hr := Cells.wf_tail hm
    unfold Cells.write
    split
    · next h =>
      refine Cells.wf_cons hm fun d hd => ?_
      rcases List.mem_cons.mp hd with rfl | hd
      · exact h
      · exact lt_trans h (hk d hd)
    · split
      · next h => subst h; exact Cells.wf_cons hr hk
      · next h1 h2 =>
        refine ⟨List.pairwise_cons.mpr ⟨fun d hd => ?_, (ih hr).1⟩, fun d hd => ?_⟩
        · rcases Cells.mem_write hd with rfl | hd
          · change k < a
            omega
          · exact hk d hd
        · rcases List.mem_cons.mp hd with rfl | hd
          · exact hm.2 _ (by simp)
          · exact (ih hr).2 d hd

theorem Cells.wf_writeN {m : Cells n} (hm : Cells.wf m) (i : Nat) (bs : List (BitVec n)) :
    Cells.wf (Cells.writeN m i bs) := by
  induction bs generalizing m i with
  | nil => exact hm
  | cons b bs ih => exact ih (Cells.wf_write hm i b) (i + 1)

/-- Reading after `MemWrite`: inside the written range the bytes written, elsewhere as before. -/
theorem Cells.read_writeN {m : Cells n} (hm : Cells.wf m) (i : Nat) (bs : List (BitVec n)) (x : Nat) :
    Cells.read (Cells.writeN m i bs) x =
      if i ≤ x then (bs[x - i]?).getD (Cells.read m x) else Cells.read m x := by
  induction bs generalizing m i with
  | nil => simp
  | cons b bs ih =>
    rw [Cells.writeN_cons, ih (Cells.wf_write hm i b), Cells.read_write hm]
    by_cases h : i = x
    · subst h; simp
    · by_cases h1 : i ≤ x
      · have h2 : i + 1 ≤ x := by omega
        rw [if_pos h2, if_pos h1, if_neg h, show x - i = (x - (i + 1)) + 1 by omega,
          List.getElem?_cons_succ]
      · rw [if_neg (by omega), if_neg h1, if_neg h]

/-- Outside the written range every index reads as before. -/
theorem Cells.read_writeN_outside {m : Cells n} (hm : Cells.wf m) {i : Nat} {bs : List (BitVec n)} {x : Nat}
    (h : x < i ∨ i + bs.length ≤ x) : Cells.read (Cells.writeN m i bs) x = Cells.read m x := by
  rw [Cells.read_writeN hm]
  split
  · rw [List.getElem?_eq_none (by omega)]; rfl
  · rfl

/-- What was written is read back. -/
theorem Cells.readN_writeN {m : Cells n} (hm : Cells.wf m) (i : Nat) (bs : List (BitVec n)) :
    Cells.readN (Cells.writeN m i bs) i bs.length = bs := by
  refine List.ext_getElem? fun j => ?_
  by_cases h : j < bs.length
  · rw [Cells.readN_getElem? _ _ _ _ h, Cells.read_writeN hm, if_pos (by omega),
      Nat.add_sub_cancel_left, List.getElem?_eq_getElem h]
    rfl
  · rw [List.getElem?_eq_none (by simpa using h), List.getElem?_eq_none (by omega)]

/-! ### Bounds are kept -/

theorem Cells.within_write {m : Cells n} {size a : Nat} {b : BitVec n} (hm : Cells.within m size)
    (h : a < size) : Cells.within (Cells.write m a b) size := fun c hc => by
  rcases Cells.mem_write hc with rfl | hc
  · exact h
  · exact hm c hc

theorem Cells.within_writeN {m : Cells n} {size i : Nat} {bs : List (BitVec n)}
    (hm : Cells.within m size) (h : i + bs.length ≤ size) :
    Cells.within (Cells.writeN m i bs) size := by
  induction bs generalizing m i with
  | nil => exact hm
  | cons b bs ih =>
    rw [List.length_cons] at h
    exact ih (Cells.within_write hm (by omega)) (by omega)

/-- A listed cell is what its index reads as, in a canonical array. -/
theorem Cells.read_of_mem {m : Cells n} (hm : Cells.wf m) {c : Nat × BitVec n} (h : c ∈ m) :
    Cells.read m c.1 = c.2 := by
  induction m with
  | nil => simp at h
  | cons d rest ih =>
    obtain ⟨k, v⟩ := d
    rcases List.mem_cons.mp h with rfl | h
    · simp [Cells.read_cons]
    · have hk : k < c.1 := (List.pairwise_cons.mp hm.1).1 c h
      rw [Cells.read_cons, if_neg (by omega), ih (Cells.wf_tail hm) h]

/-- What an index reads as is a listed value, or unwritten. -/
theorem Cells.read_mem_or_unwritten (m : Cells n) (a : Nat) :
    Cells.read m a = unwritten n ∨ (a, Cells.read m a) ∈ m := by
  induction m with
  | nil => exact .inl rfl
  | cons d rest ih =>
    obtain ⟨k, v⟩ := d
    rw [Cells.read_cons]
    split
    · next h => subst h; exact .inr (by simp)
    · exact ih.imp_right (List.mem_cons_of_mem _)

end Sys2Proof.Machine
end

