-- ==== Sys2Proof/Laws/State.lean ====
section
/-! SUPPORT. What each named update of the state writes, and that it leaves every other field: one lemma per
field per update, so that no proof unfolds an update. -/

namespace Sys2Proof.Machine

variable (s : State)

@[simp] theorem State.respondOk_eq : s.respondOk = s.respond { code := .ok } := rfl
@[simp] theorem State.respondError_eq (code : RespCode) :
    s.respondError code = s.respond { code := code } := rfl

/-! ### `respond` -/

@[simp] theorem State.respond_params (resp : Response) : (s.respond resp).params = s.params := rfl
@[simp] theorem State.respond_slotLen (resp : Response) :
    (s.respond resp).slotLen = s.slotLen := rfl
@[simp] theorem State.respond_slotBytes (resp : Response) :
    (s.respond resp).slotBytes = s.slotBytes := rfl
@[simp] theorem State.respond_w (resp : Response) : (s.respond resp).w = s.w := rfl
@[simp] theorem State.respond_r (resp : Response) : (s.respond resp).r = s.r := rfl
@[simp] theorem State.respond_lost (resp : Response) : (s.respond resp).lost = s.lost := rfl
@[simp] theorem State.respond_fbuf (resp : Response) : (s.respond resp).fbuf = s.fbuf := rfl
@[simp] theorem State.respond_flen (resp : Response) : (s.respond resp).flen = s.flen := rfl
@[simp] theorem State.respond_rate (resp : Response) : (s.respond resp).rate = s.rate := rfl
@[simp] theorem State.respond_reload (resp : Response) : (s.respond resp).reload = s.reload := rfl
@[simp] theorem State.respond_activeReload (resp : Response) :
    (s.respond resp).activeReload = s.activeReload := rfl
@[simp] theorem State.respond_tcount (resp : Response) : (s.respond resp).tcount = s.tcount := rfl
@[simp] theorem State.respond_irqPending (resp : Response) :
    (s.respond resp).irqPending = s.irqPending := rfl
@[simp] theorem State.respond_bandLed (resp : Response) :
    (s.respond resp).bandLed = s.bandLed := rfl
@[simp] theorem State.respond_lbuf (resp : Response) : (s.respond resp).lbuf = s.lbuf := rfl
@[simp] theorem State.respond_lcur (resp : Response) : (s.respond resp).lcur = s.lcur := rfl
@[simp] theorem State.respond_discard (resp : Response) :
    (s.respond resp).discard = s.discard := rfl
@[simp] theorem State.respond_cmdAck (resp : Response) : (s.respond resp).cmdAck = s.cmdAck := rfl
@[simp] theorem State.respond_events (resp : Response) : (s.respond resp).events = s.events := rfl
@[simp] theorem State.respond_inputs (resp : Response) : (s.respond resp).inputs = s.inputs := rfl
@[simp] theorem State.respond_response (resp : Response) :
    (s.respond resp).response = some resp := rfl
@[simp] theorem State.respond_stepNo (resp : Response) : (s.respond resp).stepNo = s.stepNo := rfl

/-! ### `emit` -/

@[simp] theorem State.emit_params (e : Event) : (s.emit e).params = s.params := rfl
@[simp] theorem State.emit_slotLen (e : Event) : (s.emit e).slotLen = s.slotLen := rfl
@[simp] theorem State.emit_slotBytes (e : Event) : (s.emit e).slotBytes = s.slotBytes := rfl
@[simp] theorem State.emit_w (e : Event) : (s.emit e).w = s.w := rfl
@[simp] theorem State.emit_r (e : Event) : (s.emit e).r = s.r := rfl
@[simp] theorem State.emit_lost (e : Event) : (s.emit e).lost = s.lost := rfl
@[simp] theorem State.emit_fbuf (e : Event) : (s.emit e).fbuf = s.fbuf := rfl
@[simp] theorem State.emit_flen (e : Event) : (s.emit e).flen = s.flen := rfl
@[simp] theorem State.emit_rate (e : Event) : (s.emit e).rate = s.rate := rfl
@[simp] theorem State.emit_reload (e : Event) : (s.emit e).reload = s.reload := rfl
@[simp] theorem State.emit_activeReload (e : Event) :
    (s.emit e).activeReload = s.activeReload := rfl
@[simp] theorem State.emit_tcount (e : Event) : (s.emit e).tcount = s.tcount := rfl
@[simp] theorem State.emit_irqPending (e : Event) : (s.emit e).irqPending = s.irqPending := rfl
@[simp] theorem State.emit_bandLed (e : Event) : (s.emit e).bandLed = s.bandLed := rfl
@[simp] theorem State.emit_lbuf (e : Event) : (s.emit e).lbuf = s.lbuf := rfl
@[simp] theorem State.emit_lcur (e : Event) : (s.emit e).lcur = s.lcur := rfl
@[simp] theorem State.emit_discard (e : Event) : (s.emit e).discard = s.discard := rfl
@[simp] theorem State.emit_cmdAck (e : Event) : (s.emit e).cmdAck = s.cmdAck := rfl
@[simp] theorem State.emit_events (e : Event) :
    (s.emit e).events = s.events ++ [(s.stepNo, e)] := rfl
@[simp] theorem State.emit_inputs (e : Event) : (s.emit e).inputs = s.inputs := rfl
@[simp] theorem State.emit_response (e : Event) : (s.emit e).response = s.response := rfl
@[simp] theorem State.emit_stepNo (e : Event) : (s.emit e).stepNo = s.stepNo := rfl

/-! ### `slotWrite` -/

@[simp] theorem State.slotWrite_params (k : Nat) (len : FrameLen) (bytes : List Byte) :
    (s.slotWrite k len bytes).params = s.params := rfl
@[simp] theorem State.slotWrite_slotLen (k : Nat) (len : FrameLen) (bytes : List Byte) :
    (s.slotWrite k len bytes).slotLen = Cells.write s.slotLen k len := rfl
@[simp] theorem State.slotWrite_slotBytes (k : Nat) (len : FrameLen) (bytes : List Byte) :
    (s.slotWrite k len bytes).slotBytes = Cells.writeN s.slotBytes (k * s.params.frameCap) bytes := rfl
@[simp] theorem State.slotWrite_w (k : Nat) (len : FrameLen) (bytes : List Byte) :
    (s.slotWrite k len bytes).w = s.w := rfl
@[simp] theorem State.slotWrite_r (k : Nat) (len : FrameLen) (bytes : List Byte) :
    (s.slotWrite k len bytes).r = s.r := rfl
@[simp] theorem State.slotWrite_lost (k : Nat) (len : FrameLen) (bytes : List Byte) :
    (s.slotWrite k len bytes).lost = s.lost := rfl
@[simp] theorem State.slotWrite_fbuf (k : Nat) (len : FrameLen) (bytes : List Byte) :
    (s.slotWrite k len bytes).fbuf = s.fbuf := rfl
@[simp] theorem State.slotWrite_flen (k : Nat) (len : FrameLen) (bytes : List Byte) :
    (s.slotWrite k len bytes).flen = s.flen := rfl
@[simp] theorem State.slotWrite_rate (k : Nat) (len : FrameLen) (bytes : List Byte) :
    (s.slotWrite k len bytes).rate = s.rate := rfl
@[simp] theorem State.slotWrite_reload (k : Nat) (len : FrameLen) (bytes : List Byte) :
    (s.slotWrite k len bytes).reload = s.reload := rfl
@[simp] theorem State.slotWrite_activeReload (k : Nat) (len : FrameLen) (bytes : List Byte) :
    (s.slotWrite k len bytes).activeReload = s.activeReload := rfl
@[simp] theorem State.slotWrite_tcount (k : Nat) (len : FrameLen) (bytes : List Byte) :
    (s.slotWrite k len bytes).tcount = s.tcount := rfl
@[simp] theorem State.slotWrite_irqPending (k : Nat) (len : FrameLen) (bytes : List Byte) :
    (s.slotWrite k len bytes).irqPending = s.irqPending := rfl
@[simp] theorem State.slotWrite_bandLed (k : Nat) (len : FrameLen) (bytes : List Byte) :
    (s.slotWrite k len bytes).bandLed = s.bandLed := rfl
@[simp] theorem State.slotWrite_lbuf (k : Nat) (len : FrameLen) (bytes : List Byte) :
    (s.slotWrite k len bytes).lbuf = s.lbuf := rfl
@[simp] theorem State.slotWrite_lcur (k : Nat) (len : FrameLen) (bytes : List Byte) :
    (s.slotWrite k len bytes).lcur = s.lcur := rfl
@[simp] theorem State.slotWrite_discard (k : Nat) (len : FrameLen) (bytes : List Byte) :
    (s.slotWrite k len bytes).discard = s.discard := rfl
@[simp] theorem State.slotWrite_cmdAck (k : Nat) (len : FrameLen) (bytes : List Byte) :
    (s.slotWrite k len bytes).cmdAck = s.cmdAck := rfl
@[simp] theorem State.slotWrite_events (k : Nat) (len : FrameLen) (bytes : List Byte) :
    (s.slotWrite k len bytes).events = s.events := rfl
@[simp] theorem State.slotWrite_inputs (k : Nat) (len : FrameLen) (bytes : List Byte) :
    (s.slotWrite k len bytes).inputs = s.inputs := rfl
@[simp] theorem State.slotWrite_response (k : Nat) (len : FrameLen) (bytes : List Byte) :
    (s.slotWrite k len bytes).response = s.response := rfl
@[simp] theorem State.slotWrite_stepNo (k : Nat) (len : FrameLen) (bytes : List Byte) :
    (s.slotWrite k len bytes).stepNo = s.stepNo := rfl

/-! ### `countLoss` -/

@[simp] theorem State.countLoss_params : s.countLoss.params = s.params := rfl
@[simp] theorem State.countLoss_slotLen : s.countLoss.slotLen = s.slotLen := rfl
@[simp] theorem State.countLoss_slotBytes : s.countLoss.slotBytes = s.slotBytes := rfl
@[simp] theorem State.countLoss_w : s.countLoss.w = s.w := rfl
@[simp] theorem State.countLoss_r : s.countLoss.r = s.r := rfl
@[simp] theorem State.countLoss_lost :
    s.countLoss.lost = if s.params.ringSlots ≤ s.distance then s.lost + 1#32 else s.lost := rfl
@[simp] theorem State.countLoss_fbuf : s.countLoss.fbuf = s.fbuf := rfl
@[simp] theorem State.countLoss_flen : s.countLoss.flen = s.flen := rfl
@[simp] theorem State.countLoss_rate : s.countLoss.rate = s.rate := rfl
@[simp] theorem State.countLoss_reload : s.countLoss.reload = s.reload := rfl
@[simp] theorem State.countLoss_activeReload : s.countLoss.activeReload = s.activeReload := rfl
@[simp] theorem State.countLoss_tcount : s.countLoss.tcount = s.tcount := rfl
@[simp] theorem State.countLoss_irqPending : s.countLoss.irqPending = s.irqPending := rfl
@[simp] theorem State.countLoss_bandLed : s.countLoss.bandLed = s.bandLed := rfl
@[simp] theorem State.countLoss_lbuf : s.countLoss.lbuf = s.lbuf := rfl
@[simp] theorem State.countLoss_lcur : s.countLoss.lcur = s.lcur := rfl
@[simp] theorem State.countLoss_discard : s.countLoss.discard = s.discard := rfl
@[simp] theorem State.countLoss_cmdAck : s.countLoss.cmdAck = s.cmdAck := rfl
@[simp] theorem State.countLoss_events : s.countLoss.events = s.events := rfl
@[simp] theorem State.countLoss_inputs : s.countLoss.inputs = s.inputs := rfl
@[simp] theorem State.countLoss_response : s.countLoss.response = s.response := rfl
@[simp] theorem State.countLoss_stepNo : s.countLoss.stepNo = s.stepNo := rfl

/-! ### `advanceW` -/

@[simp] theorem State.advanceW_params : s.advanceW.params = s.params := rfl
@[simp] theorem State.advanceW_slotLen : s.advanceW.slotLen = s.slotLen := rfl
@[simp] theorem State.advanceW_slotBytes : s.advanceW.slotBytes = s.slotBytes := rfl
@[simp] theorem State.advanceW_w : s.advanceW.w = addW s.params s.w 1 := rfl
@[simp] theorem State.advanceW_r : s.advanceW.r = s.r := rfl
@[simp] theorem State.advanceW_lost : s.advanceW.lost = s.lost := rfl
@[simp] theorem State.advanceW_fbuf : s.advanceW.fbuf = s.fbuf := rfl
@[simp] theorem State.advanceW_flen : s.advanceW.flen = s.flen := rfl
@[simp] theorem State.advanceW_rate : s.advanceW.rate = s.rate := rfl
@[simp] theorem State.advanceW_reload : s.advanceW.reload = s.reload := rfl
@[simp] theorem State.advanceW_activeReload : s.advanceW.activeReload = s.activeReload := rfl
@[simp] theorem State.advanceW_tcount : s.advanceW.tcount = s.tcount := rfl
@[simp] theorem State.advanceW_irqPending : s.advanceW.irqPending = s.irqPending := rfl
@[simp] theorem State.advanceW_bandLed : s.advanceW.bandLed = s.bandLed := rfl
@[simp] theorem State.advanceW_lbuf : s.advanceW.lbuf = s.lbuf := rfl
@[simp] theorem State.advanceW_lcur : s.advanceW.lcur = s.lcur := rfl
@[simp] theorem State.advanceW_discard : s.advanceW.discard = s.discard := rfl
@[simp] theorem State.advanceW_cmdAck : s.advanceW.cmdAck = s.cmdAck := rfl
@[simp] theorem State.advanceW_events : s.advanceW.events = s.events := rfl
@[simp] theorem State.advanceW_inputs : s.advanceW.inputs = s.inputs := rfl
@[simp] theorem State.advanceW_response : s.advanceW.response = s.response := rfl
@[simp] theorem State.advanceW_stepNo : s.advanceW.stepNo = s.stepNo := rfl

/-! ### `putFrame` -/

@[simp] theorem State.putFrame_params (len : FrameLen) : (s.putFrame len).params = s.params := rfl
@[simp] theorem State.putFrame_slotLen (len : FrameLen) :
    (s.putFrame len).slotLen = Cells.write s.slotLen (slotOf s.params s.w) len := rfl
@[simp] theorem State.putFrame_slotBytes (len : FrameLen) :
    (s.putFrame len).slotBytes = Cells.writeN s.slotBytes (slotOf s.params s.w * s.params.frameCap) s.frameBytes := rfl
@[simp] theorem State.putFrame_w (len : FrameLen) : (s.putFrame len).w = addW s.params s.w 1 := rfl
@[simp] theorem State.putFrame_r (len : FrameLen) : (s.putFrame len).r = s.r := rfl
@[simp] theorem State.putFrame_lost (len : FrameLen) :
    (s.putFrame len).lost = if s.params.ringSlots ≤ s.distance then s.lost + 1#32 else s.lost := rfl
@[simp] theorem State.putFrame_fbuf (len : FrameLen) : (s.putFrame len).fbuf = s.fbuf := rfl
@[simp] theorem State.putFrame_flen (len : FrameLen) : (s.putFrame len).flen = s.flen := rfl
@[simp] theorem State.putFrame_rate (len : FrameLen) : (s.putFrame len).rate = s.rate := rfl
@[simp] theorem State.putFrame_reload (len : FrameLen) : (s.putFrame len).reload = s.reload := rfl
@[simp] theorem State.putFrame_activeReload (len : FrameLen) :
    (s.putFrame len).activeReload = s.activeReload := rfl
@[simp] theorem State.putFrame_tcount (len : FrameLen) : (s.putFrame len).tcount = s.tcount := rfl
@[simp] theorem State.putFrame_irqPending (len : FrameLen) :
    (s.putFrame len).irqPending = s.irqPending := rfl
@[simp] theorem State.putFrame_bandLed (len : FrameLen) :
    (s.putFrame len).bandLed = s.bandLed := rfl
@[simp] theorem State.putFrame_lbuf (len : FrameLen) : (s.putFrame len).lbuf = s.lbuf := rfl
@[simp] theorem State.putFrame_lcur (len : FrameLen) : (s.putFrame len).lcur = s.lcur := rfl
@[simp] theorem State.putFrame_discard (len : FrameLen) :
    (s.putFrame len).discard = s.discard := rfl
@[simp] theorem State.putFrame_cmdAck (len : FrameLen) : (s.putFrame len).cmdAck = s.cmdAck := rfl
@[simp] theorem State.putFrame_events (len : FrameLen) :
    (s.putFrame len).events = s.events ++ [(s.stepNo, .sealed s.w)] := rfl
@[simp] theorem State.putFrame_inputs (len : FrameLen) : (s.putFrame len).inputs = s.inputs := rfl
@[simp] theorem State.putFrame_response (len : FrameLen) :
    (s.putFrame len).response = s.response := rfl
@[simp] theorem State.putFrame_stepNo (len : FrameLen) : (s.putFrame len).stepNo = s.stepNo := rfl

/-! ### `advanceR` -/

@[simp] theorem State.advanceR_params : s.advanceR.params = s.params := rfl
@[simp] theorem State.advanceR_slotLen : s.advanceR.slotLen = s.slotLen := rfl
@[simp] theorem State.advanceR_slotBytes : s.advanceR.slotBytes = s.slotBytes := rfl
@[simp] theorem State.advanceR_w : s.advanceR.w = s.w := rfl
@[simp] theorem State.advanceR_r : s.advanceR.r = addW s.params s.readCursor 1 := rfl
@[simp] theorem State.advanceR_lost : s.advanceR.lost = s.lost := rfl
@[simp] theorem State.advanceR_fbuf : s.advanceR.fbuf = s.fbuf := rfl
@[simp] theorem State.advanceR_flen : s.advanceR.flen = s.flen := rfl
@[simp] theorem State.advanceR_rate : s.advanceR.rate = s.rate := rfl
@[simp] theorem State.advanceR_reload : s.advanceR.reload = s.reload := rfl
@[simp] theorem State.advanceR_activeReload : s.advanceR.activeReload = s.activeReload := rfl
@[simp] theorem State.advanceR_tcount : s.advanceR.tcount = s.tcount := rfl
@[simp] theorem State.advanceR_irqPending : s.advanceR.irqPending = s.irqPending := rfl
@[simp] theorem State.advanceR_bandLed : s.advanceR.bandLed = s.bandLed := rfl
@[simp] theorem State.advanceR_lbuf : s.advanceR.lbuf = s.lbuf := rfl
@[simp] theorem State.advanceR_lcur : s.advanceR.lcur = s.lcur := rfl
@[simp] theorem State.advanceR_discard : s.advanceR.discard = s.discard := rfl
@[simp] theorem State.advanceR_cmdAck : s.advanceR.cmdAck = s.cmdAck := rfl
@[simp] theorem State.advanceR_events : s.advanceR.events = s.events := rfl
@[simp] theorem State.advanceR_inputs : s.advanceR.inputs = s.inputs := rfl
@[simp] theorem State.advanceR_response : s.advanceR.response = s.response := rfl
@[simp] theorem State.advanceR_stepNo : s.advanceR.stepNo = s.stepNo := rfl

/-! ### `appendSymbols` -/

@[simp] theorem State.appendSymbols_params (v : Sample) :
    (s.appendSymbols v).params = s.params := rfl
@[simp] theorem State.appendSymbols_slotLen (v : Sample) :
    (s.appendSymbols v).slotLen = s.slotLen := rfl
@[simp] theorem State.appendSymbols_slotBytes (v : Sample) :
    (s.appendSymbols v).slotBytes = s.slotBytes := rfl
@[simp] theorem State.appendSymbols_w (v : Sample) : (s.appendSymbols v).w = s.w := rfl
@[simp] theorem State.appendSymbols_r (v : Sample) : (s.appendSymbols v).r = s.r := rfl
@[simp] theorem State.appendSymbols_lost (v : Sample) : (s.appendSymbols v).lost = s.lost := rfl
@[simp] theorem State.appendSymbols_fbuf (v : Sample) :
    (s.appendSymbols v).fbuf = Cells.writeN s.fbuf s.flen.toNat (sym s.params v) := rfl
@[simp] theorem State.appendSymbols_flen (v : Sample) :
    (s.appendSymbols v).flen = s.flen + 2#7 := rfl
@[simp] theorem State.appendSymbols_rate (v : Sample) : (s.appendSymbols v).rate = s.rate := rfl
@[simp] theorem State.appendSymbols_reload (v : Sample) :
    (s.appendSymbols v).reload = s.reload := rfl
@[simp] theorem State.appendSymbols_activeReload (v : Sample) :
    (s.appendSymbols v).activeReload = s.activeReload := rfl
@[simp] theorem State.appendSymbols_tcount (v : Sample) :
    (s.appendSymbols v).tcount = s.tcount := rfl
@[simp] theorem State.appendSymbols_irqPending (v : Sample) :
    (s.appendSymbols v).irqPending = s.irqPending := rfl
@[simp] theorem State.appendSymbols_bandLed (v : Sample) :
    (s.appendSymbols v).bandLed = s.bandLed := rfl
@[simp] theorem State.appendSymbols_lbuf (v : Sample) : (s.appendSymbols v).lbuf = s.lbuf := rfl
@[simp] theorem State.appendSymbols_lcur (v : Sample) : (s.appendSymbols v).lcur = s.lcur := rfl
@[simp] theorem State.appendSymbols_discard (v : Sample) :
    (s.appendSymbols v).discard = s.discard := rfl
@[simp] theorem State.appendSymbols_cmdAck (v : Sample) :
    (s.appendSymbols v).cmdAck = s.cmdAck := rfl
@[simp] theorem State.appendSymbols_events (v : Sample) :
    (s.appendSymbols v).events = s.events := rfl
@[simp] theorem State.appendSymbols_inputs (v : Sample) :
    (s.appendSymbols v).inputs = s.inputs := rfl
@[simp] theorem State.appendSymbols_response (v : Sample) :
    (s.appendSymbols v).response = s.response := rfl
@[simp] theorem State.appendSymbols_stepNo (v : Sample) :
    (s.appendSymbols v).stepNo = s.stepNo := rfl

/-! ### `terminateFrame` -/

@[simp] theorem State.terminateFrame_params : s.terminateFrame.params = s.params := rfl
@[simp] theorem State.terminateFrame_slotLen : s.terminateFrame.slotLen = s.slotLen := rfl
@[simp] theorem State.terminateFrame_slotBytes : s.terminateFrame.slotBytes = s.slotBytes := rfl
@[simp] theorem State.terminateFrame_w : s.terminateFrame.w = s.w := rfl
@[simp] theorem State.terminateFrame_r : s.terminateFrame.r = s.r := rfl
@[simp] theorem State.terminateFrame_lost : s.terminateFrame.lost = s.lost := rfl
@[simp] theorem State.terminateFrame_fbuf :
    s.terminateFrame.fbuf = Cells.write s.fbuf (s.params.frameCap - 1) s.params.term := rfl
@[simp] theorem State.terminateFrame_flen : s.terminateFrame.flen = s.flen := rfl
@[simp] theorem State.terminateFrame_rate : s.terminateFrame.rate = s.rate := rfl
@[simp] theorem State.terminateFrame_reload : s.terminateFrame.reload = s.reload := rfl
@[simp] theorem State.terminateFrame_activeReload :
    s.terminateFrame.activeReload = s.activeReload := rfl
@[simp] theorem State.terminateFrame_tcount : s.terminateFrame.tcount = s.tcount := rfl
@[simp] theorem State.terminateFrame_irqPending : s.terminateFrame.irqPending = s.irqPending := rfl
@[simp] theorem State.terminateFrame_bandLed : s.terminateFrame.bandLed = s.bandLed := rfl
@[simp] theorem State.terminateFrame_lbuf : s.terminateFrame.lbuf = s.lbuf := rfl
@[simp] theorem State.terminateFrame_lcur : s.terminateFrame.lcur = s.lcur := rfl
@[simp] theorem State.terminateFrame_discard : s.terminateFrame.discard = s.discard := rfl
@[simp] theorem State.terminateFrame_cmdAck : s.terminateFrame.cmdAck = s.cmdAck := rfl
@[simp] theorem State.terminateFrame_events : s.terminateFrame.events = s.events := rfl
@[simp] theorem State.terminateFrame_inputs : s.terminateFrame.inputs = s.inputs := rfl
@[simp] theorem State.terminateFrame_response : s.terminateFrame.response = s.response := rfl
@[simp] theorem State.terminateFrame_stepNo : s.terminateFrame.stepNo = s.stepNo := rfl

/-! ### `freshFrame` -/

@[simp] theorem State.freshFrame_params : s.freshFrame.params = s.params := rfl
@[simp] theorem State.freshFrame_slotLen : s.freshFrame.slotLen = s.slotLen := rfl
@[simp] theorem State.freshFrame_slotBytes : s.freshFrame.slotBytes = s.slotBytes := rfl
@[simp] theorem State.freshFrame_w : s.freshFrame.w = s.w := rfl
@[simp] theorem State.freshFrame_r : s.freshFrame.r = s.r := rfl
@[simp] theorem State.freshFrame_lost : s.freshFrame.lost = s.lost := rfl
@[simp] theorem State.freshFrame_fbuf : s.freshFrame.fbuf = s.fbuf := rfl
@[simp] theorem State.freshFrame_flen : s.freshFrame.flen = 0#7 := rfl
@[simp] theorem State.freshFrame_rate : s.freshFrame.rate = s.rate := rfl
@[simp] theorem State.freshFrame_reload : s.freshFrame.reload = s.reload := rfl
@[simp] theorem State.freshFrame_activeReload : s.freshFrame.activeReload = s.activeReload := rfl
@[simp] theorem State.freshFrame_tcount : s.freshFrame.tcount = s.tcount := rfl
@[simp] theorem State.freshFrame_irqPending : s.freshFrame.irqPending = s.irqPending := rfl
@[simp] theorem State.freshFrame_bandLed : s.freshFrame.bandLed = s.bandLed := rfl
@[simp] theorem State.freshFrame_lbuf : s.freshFrame.lbuf = s.lbuf := rfl
@[simp] theorem State.freshFrame_lcur : s.freshFrame.lcur = s.lcur := rfl
@[simp] theorem State.freshFrame_discard : s.freshFrame.discard = s.discard := rfl
@[simp] theorem State.freshFrame_cmdAck : s.freshFrame.cmdAck = s.cmdAck := rfl
@[simp] theorem State.freshFrame_events : s.freshFrame.events = s.events := rfl
@[simp] theorem State.freshFrame_inputs : s.freshFrame.inputs = s.inputs := rfl
@[simp] theorem State.freshFrame_response : s.freshFrame.response = s.response := rfl
@[simp] theorem State.freshFrame_stepNo : s.freshFrame.stepNo = s.stepNo := rfl

/-! ### `expire` -/

@[simp] theorem State.expire_params : s.expire.params = s.params := rfl
@[simp] theorem State.expire_slotLen : s.expire.slotLen = s.slotLen := rfl
@[simp] theorem State.expire_slotBytes : s.expire.slotBytes = s.slotBytes := rfl
@[simp] theorem State.expire_w : s.expire.w = s.w := rfl
@[simp] theorem State.expire_r : s.expire.r = s.r := rfl
@[simp] theorem State.expire_lost : s.expire.lost = s.lost := rfl
@[simp] theorem State.expire_fbuf : s.expire.fbuf = s.fbuf := rfl
@[simp] theorem State.expire_flen : s.expire.flen = s.flen := rfl
@[simp] theorem State.expire_rate : s.expire.rate = s.rate := rfl
@[simp] theorem State.expire_reload : s.expire.reload = s.reload := rfl
@[simp] theorem State.expire_activeReload : s.expire.activeReload = s.reload := rfl
@[simp] theorem State.expire_tcount : s.expire.tcount = 0#32 := rfl
@[simp] theorem State.expire_irqPending : s.expire.irqPending = true := rfl
@[simp] theorem State.expire_bandLed : s.expire.bandLed = s.bandLed := rfl
@[simp] theorem State.expire_lbuf : s.expire.lbuf = s.lbuf := rfl
@[simp] theorem State.expire_lcur : s.expire.lcur = s.lcur := rfl
@[simp] theorem State.expire_discard : s.expire.discard = s.discard := rfl
@[simp] theorem State.expire_cmdAck : s.expire.cmdAck = s.cmdAck := rfl
@[simp] theorem State.expire_events : s.expire.events = s.events := rfl
@[simp] theorem State.expire_inputs : s.expire.inputs = s.inputs := rfl
@[simp] theorem State.expire_response : s.expire.response = s.response := rfl
@[simp] theorem State.expire_stepNo : s.expire.stepNo = s.stepNo := rfl

/-! ### `countTick` -/

@[simp] theorem State.countTick_params : s.countTick.params = s.params := rfl
@[simp] theorem State.countTick_slotLen : s.countTick.slotLen = s.slotLen := rfl
@[simp] theorem State.countTick_slotBytes : s.countTick.slotBytes = s.slotBytes := rfl
@[simp] theorem State.countTick_w : s.countTick.w = s.w := rfl
@[simp] theorem State.countTick_r : s.countTick.r = s.r := rfl
@[simp] theorem State.countTick_lost : s.countTick.lost = s.lost := rfl
@[simp] theorem State.countTick_fbuf : s.countTick.fbuf = s.fbuf := rfl
@[simp] theorem State.countTick_flen : s.countTick.flen = s.flen := rfl
@[simp] theorem State.countTick_rate : s.countTick.rate = s.rate := rfl
@[simp] theorem State.countTick_reload : s.countTick.reload = s.reload := rfl
@[simp] theorem State.countTick_activeReload : s.countTick.activeReload = s.activeReload := rfl
@[simp] theorem State.countTick_tcount : s.countTick.tcount = s.tcount + 1#32 := rfl
@[simp] theorem State.countTick_irqPending : s.countTick.irqPending = s.irqPending := rfl
@[simp] theorem State.countTick_bandLed : s.countTick.bandLed = s.bandLed := rfl
@[simp] theorem State.countTick_lbuf : s.countTick.lbuf = s.lbuf := rfl
@[simp] theorem State.countTick_lcur : s.countTick.lcur = s.lcur := rfl
@[simp] theorem State.countTick_discard : s.countTick.discard = s.discard := rfl
@[simp] theorem State.countTick_cmdAck : s.countTick.cmdAck = s.cmdAck := rfl
@[simp] theorem State.countTick_events : s.countTick.events = s.events := rfl
@[simp] theorem State.countTick_inputs : s.countTick.inputs = s.inputs := rfl
@[simp] theorem State.countTick_response : s.countTick.response = s.response := rfl
@[simp] theorem State.countTick_stepNo : s.countTick.stepNo = s.stepNo := rfl

/-! ### `clearIrq` -/

@[simp] theorem State.clearIrq_params : s.clearIrq.params = s.params := rfl
@[simp] theorem State.clearIrq_slotLen : s.clearIrq.slotLen = s.slotLen := rfl
@[simp] theorem State.clearIrq_slotBytes : s.clearIrq.slotBytes = s.slotBytes := rfl
@[simp] theorem State.clearIrq_w : s.clearIrq.w = s.w := rfl
@[simp] theorem State.clearIrq_r : s.clearIrq.r = s.r := rfl
@[simp] theorem State.clearIrq_lost : s.clearIrq.lost = s.lost := rfl
@[simp] theorem State.clearIrq_fbuf : s.clearIrq.fbuf = s.fbuf := rfl
@[simp] theorem State.clearIrq_flen : s.clearIrq.flen = s.flen := rfl
@[simp] theorem State.clearIrq_rate : s.clearIrq.rate = s.rate := rfl
@[simp] theorem State.clearIrq_reload : s.clearIrq.reload = s.reload := rfl
@[simp] theorem State.clearIrq_activeReload : s.clearIrq.activeReload = s.activeReload := rfl
@[simp] theorem State.clearIrq_tcount : s.clearIrq.tcount = s.tcount := rfl
@[simp] theorem State.clearIrq_irqPending : s.clearIrq.irqPending = false := rfl
@[simp] theorem State.clearIrq_bandLed : s.clearIrq.bandLed = s.bandLed := rfl
@[simp] theorem State.clearIrq_lbuf : s.clearIrq.lbuf = s.lbuf := rfl
@[simp] theorem State.clearIrq_lcur : s.clearIrq.lcur = s.lcur := rfl
@[simp] theorem State.clearIrq_discard : s.clearIrq.discard = s.discard := rfl
@[simp] theorem State.clearIrq_cmdAck : s.clearIrq.cmdAck = s.cmdAck := rfl
@[simp] theorem State.clearIrq_events : s.clearIrq.events = s.events := rfl
@[simp] theorem State.clearIrq_inputs : s.clearIrq.inputs = s.inputs := rfl
@[simp] theorem State.clearIrq_response : s.clearIrq.response = s.response := rfl
@[simp] theorem State.clearIrq_stepNo : s.clearIrq.stepNo = s.stepNo := rfl

/-! ### `bandCheck` -/

@[simp] theorem State.bandCheck_params (v : Sample) : (s.bandCheck v).params = s.params := rfl
@[simp] theorem State.bandCheck_slotLen (v : Sample) : (s.bandCheck v).slotLen = s.slotLen := rfl
@[simp] theorem State.bandCheck_slotBytes (v : Sample) :
    (s.bandCheck v).slotBytes = s.slotBytes := rfl
@[simp] theorem State.bandCheck_w (v : Sample) : (s.bandCheck v).w = s.w := rfl
@[simp] theorem State.bandCheck_r (v : Sample) : (s.bandCheck v).r = s.r := rfl
@[simp] theorem State.bandCheck_lost (v : Sample) : (s.bandCheck v).lost = s.lost := rfl
@[simp] theorem State.bandCheck_fbuf (v : Sample) : (s.bandCheck v).fbuf = s.fbuf := rfl
@[simp] theorem State.bandCheck_flen (v : Sample) : (s.bandCheck v).flen = s.flen := rfl
@[simp] theorem State.bandCheck_rate (v : Sample) : (s.bandCheck v).rate = s.rate := rfl
@[simp] theorem State.bandCheck_reload (v : Sample) : (s.bandCheck v).reload = s.reload := rfl
@[simp] theorem State.bandCheck_activeReload (v : Sample) :
    (s.bandCheck v).activeReload = s.activeReload := rfl
@[simp] theorem State.bandCheck_tcount (v : Sample) : (s.bandCheck v).tcount = s.tcount := rfl
@[simp] theorem State.bandCheck_irqPending (v : Sample) :
    (s.bandCheck v).irqPending = s.irqPending := rfl
@[simp] theorem State.bandCheck_bandLed (v : Sample) :
    (s.bandCheck v).bandLed = (s.bandLed ^^ outOfBand s.params v) := rfl
@[simp] theorem State.bandCheck_lbuf (v : Sample) : (s.bandCheck v).lbuf = s.lbuf := rfl
@[simp] theorem State.bandCheck_lcur (v : Sample) : (s.bandCheck v).lcur = s.lcur := rfl
@[simp] theorem State.bandCheck_discard (v : Sample) : (s.bandCheck v).discard = s.discard := rfl
@[simp] theorem State.bandCheck_cmdAck (v : Sample) : (s.bandCheck v).cmdAck = s.cmdAck := rfl
@[simp] theorem State.bandCheck_events (v : Sample) : (s.bandCheck v).events = s.events := rfl
@[simp] theorem State.bandCheck_inputs (v : Sample) : (s.bandCheck v).inputs = s.inputs := rfl
@[simp] theorem State.bandCheck_response (v : Sample) : (s.bandCheck v).response = s.response := rfl
@[simp] theorem State.bandCheck_stepNo (v : Sample) : (s.bandCheck v).stepNo = s.stepNo := rfl

/-! ### `applyRate` -/

@[simp] theorem State.applyRate_params (n : Nat) : (s.applyRate n).params = s.params := rfl
@[simp] theorem State.applyRate_slotLen (n : Nat) : (s.applyRate n).slotLen = s.slotLen := rfl
@[simp] theorem State.applyRate_slotBytes (n : Nat) : (s.applyRate n).slotBytes = s.slotBytes := rfl
@[simp] theorem State.applyRate_w (n : Nat) : (s.applyRate n).w = s.w := rfl
@[simp] theorem State.applyRate_r (n : Nat) : (s.applyRate n).r = s.r := rfl
@[simp] theorem State.applyRate_lost (n : Nat) : (s.applyRate n).lost = s.lost := rfl
@[simp] theorem State.applyRate_fbuf (n : Nat) : (s.applyRate n).fbuf = s.fbuf := rfl
@[simp] theorem State.applyRate_flen (n : Nat) : (s.applyRate n).flen = s.flen := rfl
@[simp] theorem State.applyRate_rate (n : Nat) : (s.applyRate n).rate = BitVec.ofNat 16 n := rfl
@[simp] theorem State.applyRate_reload (n : Nat) :
    (s.applyRate n).reload = reloadOf s.params n := rfl
@[simp] theorem State.applyRate_activeReload (n : Nat) :
    (s.applyRate n).activeReload = s.activeReload := rfl
@[simp] theorem State.applyRate_tcount (n : Nat) : (s.applyRate n).tcount = s.tcount := rfl
@[simp] theorem State.applyRate_irqPending (n : Nat) :
    (s.applyRate n).irqPending = s.irqPending := rfl
@[simp] theorem State.applyRate_bandLed (n : Nat) : (s.applyRate n).bandLed = s.bandLed := rfl
@[simp] theorem State.applyRate_lbuf (n : Nat) : (s.applyRate n).lbuf = s.lbuf := rfl
@[simp] theorem State.applyRate_lcur (n : Nat) : (s.applyRate n).lcur = s.lcur := rfl
@[simp] theorem State.applyRate_discard (n : Nat) : (s.applyRate n).discard = s.discard := rfl
@[simp] theorem State.applyRate_cmdAck (n : Nat) : (s.applyRate n).cmdAck = !s.cmdAck := rfl
@[simp] theorem State.applyRate_events (n : Nat) : (s.applyRate n).events = s.events := rfl
@[simp] theorem State.applyRate_inputs (n : Nat) : (s.applyRate n).inputs = s.inputs := rfl
@[simp] theorem State.applyRate_response (n : Nat) : (s.applyRate n).response = s.response := rfl
@[simp] theorem State.applyRate_stepNo (n : Nat) : (s.applyRate n).stepNo = s.stepNo := rfl

/-! ### `endLine` -/

@[simp] theorem State.endLine_params : s.endLine.params = s.params := rfl
@[simp] theorem State.endLine_slotLen : s.endLine.slotLen = s.slotLen := rfl
@[simp] theorem State.endLine_slotBytes : s.endLine.slotBytes = s.slotBytes := rfl
@[simp] theorem State.endLine_w : s.endLine.w = s.w := rfl
@[simp] theorem State.endLine_r : s.endLine.r = s.r := rfl
@[simp] theorem State.endLine_lost : s.endLine.lost = s.lost := rfl
@[simp] theorem State.endLine_fbuf : s.endLine.fbuf = s.fbuf := rfl
@[simp] theorem State.endLine_flen : s.endLine.flen = s.flen := rfl
@[simp] theorem State.endLine_rate : s.endLine.rate = s.rate := rfl
@[simp] theorem State.endLine_reload : s.endLine.reload = s.reload := rfl
@[simp] theorem State.endLine_activeReload : s.endLine.activeReload = s.activeReload := rfl
@[simp] theorem State.endLine_tcount : s.endLine.tcount = s.tcount := rfl
@[simp] theorem State.endLine_irqPending : s.endLine.irqPending = s.irqPending := rfl
@[simp] theorem State.endLine_bandLed : s.endLine.bandLed = s.bandLed := rfl
@[simp] theorem State.endLine_lbuf : s.endLine.lbuf = s.lbuf := rfl
@[simp] theorem State.endLine_lcur : s.endLine.lcur = 0#6 := rfl
@[simp] theorem State.endLine_discard : s.endLine.discard = false := rfl
@[simp] theorem State.endLine_cmdAck : s.endLine.cmdAck = s.cmdAck := rfl
@[simp] theorem State.endLine_events : s.endLine.events = s.events := rfl
@[simp] theorem State.endLine_inputs : s.endLine.inputs = s.inputs := rfl
@[simp] theorem State.endLine_response : s.endLine.response = s.response := rfl
@[simp] theorem State.endLine_stepNo : s.endLine.stepNo = s.stepNo := rfl

/-! ### `pushChar` -/

@[simp] theorem State.pushChar_params (b : Byte) : (s.pushChar b).params = s.params := rfl
@[simp] theorem State.pushChar_slotLen (b : Byte) : (s.pushChar b).slotLen = s.slotLen := rfl
@[simp] theorem State.pushChar_slotBytes (b : Byte) : (s.pushChar b).slotBytes = s.slotBytes := rfl
@[simp] theorem State.pushChar_w (b : Byte) : (s.pushChar b).w = s.w := rfl
@[simp] theorem State.pushChar_r (b : Byte) : (s.pushChar b).r = s.r := rfl
@[simp] theorem State.pushChar_lost (b : Byte) : (s.pushChar b).lost = s.lost := rfl
@[simp] theorem State.pushChar_fbuf (b : Byte) : (s.pushChar b).fbuf = s.fbuf := rfl
@[simp] theorem State.pushChar_flen (b : Byte) : (s.pushChar b).flen = s.flen := rfl
@[simp] theorem State.pushChar_rate (b : Byte) : (s.pushChar b).rate = s.rate := rfl
@[simp] theorem State.pushChar_reload (b : Byte) : (s.pushChar b).reload = s.reload := rfl
@[simp] theorem State.pushChar_activeReload (b : Byte) :
    (s.pushChar b).activeReload = s.activeReload := rfl
@[simp] theorem State.pushChar_tcount (b : Byte) : (s.pushChar b).tcount = s.tcount := rfl
@[simp] theorem State.pushChar_irqPending (b : Byte) :
    (s.pushChar b).irqPending = s.irqPending := rfl
@[simp] theorem State.pushChar_bandLed (b : Byte) : (s.pushChar b).bandLed = s.bandLed := rfl
@[simp] theorem State.pushChar_lbuf (b : Byte) :
    (s.pushChar b).lbuf = Cells.write s.lbuf s.lcur.toNat b := rfl
@[simp] theorem State.pushChar_lcur (b : Byte) : (s.pushChar b).lcur = s.lcur + 1#6 := rfl
@[simp] theorem State.pushChar_discard (b : Byte) : (s.pushChar b).discard = s.discard := rfl
@[simp] theorem State.pushChar_cmdAck (b : Byte) : (s.pushChar b).cmdAck = s.cmdAck := rfl
@[simp] theorem State.pushChar_events (b : Byte) : (s.pushChar b).events = s.events := rfl
@[simp] theorem State.pushChar_inputs (b : Byte) : (s.pushChar b).inputs = s.inputs := rfl
@[simp] theorem State.pushChar_response (b : Byte) : (s.pushChar b).response = s.response := rfl
@[simp] theorem State.pushChar_stepNo (b : Byte) : (s.pushChar b).stepNo = s.stepNo := rfl

/-! ### `overflowLine` -/

@[simp] theorem State.overflowLine_params : s.overflowLine.params = s.params := rfl
@[simp] theorem State.overflowLine_slotLen : s.overflowLine.slotLen = s.slotLen := rfl
@[simp] theorem State.overflowLine_slotBytes : s.overflowLine.slotBytes = s.slotBytes := rfl
@[simp] theorem State.overflowLine_w : s.overflowLine.w = s.w := rfl
@[simp] theorem State.overflowLine_r : s.overflowLine.r = s.r := rfl
@[simp] theorem State.overflowLine_lost : s.overflowLine.lost = s.lost := rfl
@[simp] theorem State.overflowLine_fbuf : s.overflowLine.fbuf = s.fbuf := rfl
@[simp] theorem State.overflowLine_flen : s.overflowLine.flen = s.flen := rfl
@[simp] theorem State.overflowLine_rate : s.overflowLine.rate = s.rate := rfl
@[simp] theorem State.overflowLine_reload : s.overflowLine.reload = s.reload := rfl
@[simp] theorem State.overflowLine_activeReload :
    s.overflowLine.activeReload = s.activeReload := rfl
@[simp] theorem State.overflowLine_tcount : s.overflowLine.tcount = s.tcount := rfl
@[simp] theorem State.overflowLine_irqPending : s.overflowLine.irqPending = s.irqPending := rfl
@[simp] theorem State.overflowLine_bandLed : s.overflowLine.bandLed = s.bandLed := rfl
@[simp] theorem State.overflowLine_lbuf : s.overflowLine.lbuf = s.lbuf := rfl
@[simp] theorem State.overflowLine_lcur : s.overflowLine.lcur = 0#6 := rfl
@[simp] theorem State.overflowLine_discard : s.overflowLine.discard = true := rfl
@[simp] theorem State.overflowLine_cmdAck : s.overflowLine.cmdAck = s.cmdAck := rfl
@[simp] theorem State.overflowLine_events : s.overflowLine.events = s.events := rfl
@[simp] theorem State.overflowLine_inputs : s.overflowLine.inputs = s.inputs := rfl
@[simp] theorem State.overflowLine_response : s.overflowLine.response = s.response := rfl
@[simp] theorem State.overflowLine_stepNo : s.overflowLine.stepNo = s.stepNo := rfl

/-! ### `accept` -/

@[simp] theorem State.accept_params (rest : List Input) : (s.accept rest).params = s.params := rfl
@[simp] theorem State.accept_slotLen (rest : List Input) :
    (s.accept rest).slotLen = s.slotLen := rfl
@[simp] theorem State.accept_slotBytes (rest : List Input) :
    (s.accept rest).slotBytes = s.slotBytes := rfl
@[simp] theorem State.accept_w (rest : List Input) : (s.accept rest).w = s.w := rfl
@[simp] theorem State.accept_r (rest : List Input) : (s.accept rest).r = s.r := rfl
@[simp] theorem State.accept_lost (rest : List Input) : (s.accept rest).lost = s.lost := rfl
@[simp] theorem State.accept_fbuf (rest : List Input) : (s.accept rest).fbuf = s.fbuf := rfl
@[simp] theorem State.accept_flen (rest : List Input) : (s.accept rest).flen = s.flen := rfl
@[simp] theorem State.accept_rate (rest : List Input) : (s.accept rest).rate = s.rate := rfl
@[simp] theorem State.accept_reload (rest : List Input) : (s.accept rest).reload = s.reload := rfl
@[simp] theorem State.accept_activeReload (rest : List Input) :
    (s.accept rest).activeReload = s.activeReload := rfl
@[simp] theorem State.accept_tcount (rest : List Input) : (s.accept rest).tcount = s.tcount := rfl
@[simp] theorem State.accept_irqPending (rest : List Input) :
    (s.accept rest).irqPending = s.irqPending := rfl
@[simp] theorem State.accept_bandLed (rest : List Input) :
    (s.accept rest).bandLed = s.bandLed := rfl
@[simp] theorem State.accept_lbuf (rest : List Input) : (s.accept rest).lbuf = s.lbuf := rfl
@[simp] theorem State.accept_lcur (rest : List Input) : (s.accept rest).lcur = s.lcur := rfl
@[simp] theorem State.accept_discard (rest : List Input) :
    (s.accept rest).discard = s.discard := rfl
@[simp] theorem State.accept_cmdAck (rest : List Input) : (s.accept rest).cmdAck = s.cmdAck := rfl
@[simp] theorem State.accept_events (rest : List Input) : (s.accept rest).events = s.events := rfl
@[simp] theorem State.accept_inputs (rest : List Input) : (s.accept rest).inputs = rest := rfl
@[simp] theorem State.accept_response (rest : List Input) : (s.accept rest).response = none := rfl
@[simp] theorem State.accept_stepNo (rest : List Input) :
    (s.accept rest).stepNo = s.stepNo + 1 := rfl

/-! ### `present` -/

@[simp] theorem State.present_params (req : Word) : (s.present req).params = s.params := rfl
@[simp] theorem State.present_slotLen (req : Word) : (s.present req).slotLen = s.slotLen := rfl
@[simp] theorem State.present_slotBytes (req : Word) :
    (s.present req).slotBytes = s.slotBytes := rfl
@[simp] theorem State.present_w (req : Word) : (s.present req).w = s.w := rfl
@[simp] theorem State.present_r (req : Word) : (s.present req).r = s.r := rfl
@[simp] theorem State.present_lost (req : Word) : (s.present req).lost = s.lost := rfl
@[simp] theorem State.present_fbuf (req : Word) : (s.present req).fbuf = s.fbuf := rfl
@[simp] theorem State.present_flen (req : Word) : (s.present req).flen = s.flen := rfl
@[simp] theorem State.present_rate (req : Word) : (s.present req).rate = s.rate := rfl
@[simp] theorem State.present_reload (req : Word) : (s.present req).reload = s.reload := rfl
@[simp] theorem State.present_activeReload (req : Word) :
    (s.present req).activeReload = s.activeReload := rfl
@[simp] theorem State.present_tcount (req : Word) : (s.present req).tcount = s.tcount := rfl
@[simp] theorem State.present_irqPending (req : Word) :
    (s.present req).irqPending = s.irqPending := rfl
@[simp] theorem State.present_bandLed (req : Word) : (s.present req).bandLed = s.bandLed := rfl
@[simp] theorem State.present_lbuf (req : Word) : (s.present req).lbuf = s.lbuf := rfl
@[simp] theorem State.present_lcur (req : Word) : (s.present req).lcur = s.lcur := rfl
@[simp] theorem State.present_discard (req : Word) : (s.present req).discard = s.discard := rfl
@[simp] theorem State.present_cmdAck (req : Word) : (s.present req).cmdAck = s.cmdAck := rfl
@[simp] theorem State.present_events (req : Word) : (s.present req).events = s.events := rfl
@[simp] theorem State.present_inputs (req : Word) :
    (s.present req).inputs = .request req :: s.inputs := rfl
@[simp] theorem State.present_response (req : Word) : (s.present req).response = s.response := rfl
@[simp] theorem State.present_stepNo (req : Word) : (s.present req).stepNo = s.stepNo := rfl

end Sys2Proof.Machine
end

