-- ==== Sys2Proof/Laws/Ops.lean ====
section
/-! SUPPORT. What each shared operation and each meaning can do, said once: the provers cite these instead of
unfolding the operations. -/

namespace Sys2Proof

/-! ### The constraints of a legal parameter set, by name -/

theorem Params.ok_frameCap {p : Params} (h : p.Ok) :
    p.frameCap % 2 = 1 ∧ 3 ≤ p.frameCap ∧ p.frameCap ≤ 127 := h.1

theorem Params.ok_cursorW {p : Params} (h : p.Ok) : 2 ≤ p.cursorW := h.2.2.1

theorem Params.ok_ringSlots_pos {p : Params} (h : p.Ok) : 1 ≤ p.ringSlots := h.2.1.2.1

theorem Params.ok_ringSlots_le {p : Params} (h : p.Ok) : p.ringSlots ≤ 2 ^ (p.cursorW - 1) := h.2.1.2.2

theorem Params.ok_lineCap {p : Params} (h : p.Ok) : 1 ≤ p.lineCap ∧ p.lineCap ≤ 63 := h.2.2.2.1

theorem Params.ok_rate {p : Params} (h : p.Ok) :
    1 ≤ p.rateMin ∧ p.rateMin ≤ p.rateMax ∧ p.rateMax ≤ 65535 :=
  ⟨h.2.2.2.2.1.1, h.2.2.2.2.1.2, h.2.2.2.2.2.1⟩

theorem Params.ok_alphabet_length {p : Params} (h : p.Ok) : p.alphabet.length = 64 :=
  h.2.2.2.2.2.2.2.2.1.1

theorem Params.ok_alphabet_nodup {p : Params} (h : p.Ok) : p.alphabet.Nodup :=
  (noRepeats_iff_nodup _).mp h.2.2.2.2.2.2.2.2.1.2.1

theorem Params.ok_term {p : Params} (h : p.Ok) : p.term ∉ p.alphabet := h.2.2.2.2.2.2.2.2.2.1

theorem Params.ok_timerClk {p : Params} (h : p.Ok) :
    p.rateMax ≤ p.timerClkHz ∧ p.timerClkHz < 2 ^ 32 := h.2.2.2.2.2.2.2.2.2.2.2.1

theorem Params.ok_resetRate {p : Params} (h : p.Ok) :
    p.rateMin ≤ p.resetRate ∧ p.resetRate ≤ p.rateMax := h.2.2.2.2.2.2.2.2.2.2.2.2

/-- N divides 2^W (R7). -/
theorem Params.ok_ringSlots_dvd {p : Params} (h : p.Ok) : p.ringSlots ∣ 2 ^ p.cursorW := by
  have hk := h.2.1.1
  have hle := Params.ok_ringSlots_le h
  rw [← hk] at hle ⊢
  have := (Nat.pow_le_pow_iff_right (by norm_num : 1 < 2)).mp hle
  exact pow_dvd_pow 2 (by omega)

/-- Twice N is at most 2^W (R6). -/
theorem Params.ok_two_ringSlots {p : Params} (h : p.Ok) : 2 * p.ringSlots ≤ 2 ^ p.cursorW := by
  have hle := Params.ok_ringSlots_le h
  have hW := Params.ok_cursorW h
  obtain ⟨k, hk⟩ : ∃ k, p.cursorW = k + 1 := ⟨p.cursorW - 1, by omega⟩
  rw [hk] at hle ⊢
  rw [pow_succ]
  simp only [Nat.add_sub_cancel] at hle
  omega

end Sys2Proof

namespace Sys2Proof.Machine

/-! ### The configuration check -/

theorem checked_of_ok {s : State} (h : s.params.Ok) (o : Result) : checked s o = o := if_pos h

theorem checked_of_not_ok {s : State} (h : ¬ s.params.Ok) (o : Result) :
    checked s o = .fault .badConfig := if_neg h

theorem checked_eq_next {s t : State} {o : Result} :
    checked s o = .next t ↔ s.params.Ok ∧ o = .next t := by
  by_cases h : s.params.Ok
  · rw [checked_of_ok h]
    exact ⟨fun e => ⟨h, e⟩, And.right⟩
  · rw [checked_of_not_ok h]
    exact ⟨fun e => (by cases e), fun e => absurd e.1 h⟩

@[simp] theorem ofExcept_ok (s : State) : ofExcept (.ok s) = .next s := rfl
@[simp] theorem ofExcept_error (f : Fault) : ofExcept (.error f) = .fault f := rfl

theorem ofExcept_eq_next {x : Except Fault State} {t : State} :
    ofExcept x = .next t ↔ x = .ok t := by
  cases x <;> simp

/-! ### Cursor arithmetic -/

theorem addW_lt (p : Params) (a b : Nat) : addW p a b < 2 ^ p.cursorW :=
  Nat.mod_lt _ (Nat.two_pow_pos _)

theorem subW_lt (p : Params) (a b : Nat) : subW p a b < 2 ^ p.cursorW :=
  Nat.mod_lt _ (Nat.two_pow_pos _)

theorem subW_of_lt {p : Params} {b : Nat} (a : Nat) (hb : b < 2 ^ p.cursorW) :
    subW p a b = (a + 2 ^ p.cursorW - b) % 2 ^ p.cursorW := by
  unfold subW
  rw [Nat.mod_eq_of_lt hb, Nat.add_sub_assoc hb.le]

/-- Two W-bit cursors: the distance without a modulus. -/
theorem subW_cases {p : Params} {a b : Nat} (ha : a < 2 ^ p.cursorW) (hb : b < 2 ^ p.cursorW) :
    subW p a b = if b ≤ a then a - b else a + 2 ^ p.cursorW - b := by
  rw [subW_of_lt a hb]
  split
  · rw [show a + 2 ^ p.cursorW - b = (a - b) + 2 ^ p.cursorW by omega, Nat.add_mod_right,
      Nat.mod_eq_of_lt (by omega)]
  · exact Nat.mod_eq_of_lt (by omega)

theorem addW_one_cases {p : Params} {a : Nat} (ha : a < 2 ^ p.cursorW) :
    addW p a 1 = if a + 1 = 2 ^ p.cursorW then 0 else a + 1 := by
  unfold addW
  split
  · next h => rw [h, Nat.mod_self]
  · exact Nat.mod_eq_of_lt (by omega)

theorem slotOf_lt {p : Params} (h : p.Ok) (c : Nat) : slotOf p c < p.ringSlots :=
  Nat.mod_lt _ (Params.ok_ringSlots_pos h)

/-! ### The bound of an array -/

theorem memRead_of_le {size i count : Nat} {m : Memory} (h : i + count ≤ size) :
    memRead size m i count = .ok (Cells.readN m i count) := if_pos h

theorem memRead_eq_ok {size i count : Nat} {m : Memory} {bs : List Byte} :
    memRead size m i count = .ok bs ↔ i + count ≤ size ∧ bs = Cells.readN m i count := by
  unfold memRead
  split <;> simp_all [eq_comm]

/-! ### The ring -/

theorem ringWrite_of_le {s : State} {len : FrameLen} (h : len.toNat ≤ s.params.frameCap) :
    ringWrite len s = .ok (s.putFrame len) := if_neg (by omega)

theorem ringWrite_of_lt {s : State} {len : FrameLen} (h : s.params.frameCap < len.toNat) :
    ringWrite len s = .error (.badFrameLength len) := if_pos h

/-- Writing slot `k` (R10): its length and its bytes, and every other slot as before. -/
theorem slotLength_slotWrite {s : State} (hs : Cells.wf s.slotLen) (k : Nat) (len : FrameLen)
    (bytes : List Byte) (j : Nat) :
    (s.slotWrite k len bytes).slotLength j = if k = j then len else s.slotLength j :=
  Cells.read_write hs k len j

/-! ### The encoder -/

theorem frameCap_toNat {p : Params} (h : p.Ok) : (BitVec.ofNat 7 p.frameCap).toNat = p.frameCap := by
  have := Params.ok_frameCap h
  rw [BitVec.toNat_ofNat]
  omega

/-- A seal always completes (R123). -/
theorem sealFrame_eq {s : State} (h : s.params.Ok) :
    sealFrame s = .ok (s.terminateFrame.putFrame (BitVec.ofNat 7 s.params.frameCap)).freshFrame := by
  unfold sealFrame
  rw [ringWrite_of_le]
  exact (frameCap_toNat h).le

/-- ENC, once for all (R122): the fault, the append, the append that seals. -/
theorem encodeSample_eq {s : State} (h : s.params.Ok) (v : Sample) :
    encodeSample v s =
      if s.params.frameCap - 3 < s.flen.toNat ∨ s.flen.toNat % 2 = 1 then
        .error (.encoderState s.flen)
      else if s.flen.toNat + 2 = s.params.frameCap - 1 then
        .ok ((s.appendSymbols v).terminateFrame.putFrame
          (BitVec.ofNat 7 s.params.frameCap)).freshFrame
      else .ok (s.appendSymbols v) := by
  unfold encodeSample
  split
  · rfl
  · split
    · exact sealFrame_eq (s := s.appendSymbols v) h
    · rfl

/-- What a completed ENC did (R122, R123). -/
theorem encodeSample_ok {s t : State} {v : Sample} (h : s.params.Ok) (he : encodeSample v s = .ok t) :
    s.flen.toNat ≤ s.params.frameCap - 3 ∧ s.flen.toNat % 2 = 0 ∧
    ((s.flen.toNat + 2 = s.params.frameCap - 1 ∧
        t = ((s.appendSymbols v).terminateFrame.putFrame
          (BitVec.ofNat 7 s.params.frameCap)).freshFrame) ∨
      (s.flen.toNat + 2 ≠ s.params.frameCap - 1 ∧ t = s.appendSymbols v)) := by
  rw [encodeSample_eq h] at he
  split at he
  · cases he
  · next hg =>
    refine ⟨by omega, by omega, ?_⟩
    split at he
    · next hs => exact .inl ⟨hs, (Except.ok.inj he).symm⟩
    · next hs => exact .inr ⟨hs, (Except.ok.inj he).symm⟩

/-! ### What a meaning did, when it answers a next state -/

theorem exec_nop_next {s t : State} (h : exec .nop s = .next t) :
    s.params.Ok ∧ t = s.respond { code := .ok } := by
  obtain ⟨h1, h2⟩ := checked_eq_next.mp (show checked s _ = _ from h)
  exact ⟨h1, by simpa using h2.symm⟩

theorem exec_tick_next {s t : State} (h : exec .tick s = .next t) :
    s.params.Ok ∧
    ((s.tcount = s.activeReload ∧ t = s.expire.respond { code := .ok }) ∨
      (s.tcount ≠ s.activeReload ∧ s.tcount.toNat + 1 < 2 ^ 32 ∧
        t = s.countTick.respond { code := .ok })) := by
  obtain ⟨h1, h2⟩ := checked_eq_next.mp (show checked s _ = _ from h)
  refine ⟨h1, ?_⟩
  split at h2
  · next he => exact .inl ⟨he, by simpa using h2.symm⟩
  · next he =>
    split at h2
    · next hb => exact .inr ⟨he, hb, by simpa using h2.symm⟩
    · cases h2

theorem exec_acq_next {s t : State} {v : Sample} (h : exec (.acq v) s = .next t) :
    s.params.Ok ∧
    ((s.irqPending = false ∧ t = s.respond { code := .errNotPending }) ∨
      (s.irqPending = true ∧ ∃ u, encodeSample v ((s.emit .adcStart).bandCheck v) = .ok u ∧
        t = u.clearIrq.respond { code := .ok })) := by
  obtain ⟨h1, h2⟩ := checked_eq_next.mp (show checked s _ = _ from h)
  refine ⟨h1, ?_⟩
  split at h2
  · next hp =>
    split at h2
    · next u hu => exact .inr ⟨hp, u, hu, by simpa using h2.symm⟩
    · cases h2
  · next hp => exact .inl ⟨by simpa using hp, by simpa using h2.symm⟩

theorem exec_pop_next {s t : State} (h : exec .pop s = .next t) :
    s.params.Ok ∧
    ((s.distance = 0 ∧ t = s.respond { code := .empty }) ∨
      (s.distance ≠ 0 ∧ (s.slotLength s.readSlot).toNat ≤ s.params.frameCap ∧
        t = s.advanceR.respond (s.frameResponse s.readSlot))) := by
  obtain ⟨h1, h2⟩ := checked_eq_next.mp (show checked s _ = _ from h)
  refine ⟨h1, ?_⟩
  split at h2
  · next hd => exact .inl ⟨hd, by simpa using h2.symm⟩
  · next hd =>
    split at h2
    · cases h2
    · next hl => exact .inr ⟨hd, by omega, by simpa using h2.symm⟩

theorem lineEnd_ok {s t : State} (h : lineEnd s = .ok t) :
    (s.discard = true ∧ t = s.endLine) ∨
    (s.discard = false ∧ s.lcur.toNat ≤ s.params.lineCap ∧
      t = (s.applyLine (Cells.readN s.lbuf 0 s.lcur.toNat)).endLine) := by
  unfold lineEnd at h
  split at h
  · next hd => exact .inl ⟨hd, by simpa using h.symm⟩
  · next hd =>
    split at h
    · next line hl =>
      obtain ⟨hb, rfl⟩ := memRead_eq_ok.mp hl
      exact .inr ⟨by simpa using hd, by omega, by simpa using h.symm⟩
    · cases h

/-- What a line does to the state (R160-R164): nothing, or APPLY of an accepted value. -/
theorem applyLine_cases (s : State) (line : List Byte) :
    s.applyLine line = s ∨
    ∃ n, parseDec line = some n ∧ s.params.rateMin ≤ n ∧ n ≤ s.params.rateMax ∧
      s.applyLine line = s.applyRate n := by
  unfold State.applyLine
  split
  · next n hn =>
    split
    · next ha =>
      simp only [rateAccepted, Bool.and_eq_true, decide_eq_true_eq] at ha
      exact .inr ⟨n, hn, ha.1, ha.2, rfl⟩
    · exact .inl rfl
  · exact .inl rfl

theorem exec_rxb_next {s t : State} {b : Byte} (h : exec (.rxb b) s = .next t) :
    s.params.Ok ∧
    ((isTerminator b = true ∧ ∃ u, lineEnd s = .ok u ∧ t = u.respond { code := .ok }) ∨
      (isTerminator b = false ∧ t = (s.lineChar b).respond { code := .ok })) := by
  obtain ⟨h1, h2⟩ := checked_eq_next.mp (show checked s _ = _ from h)
  refine ⟨h1, ?_⟩
  split at h2
  · next hb =>
    split at h2
    · next u hu => exact .inl ⟨hb, u, hu, by simpa using h2.symm⟩
    · cases h2
  · next hb => exact .inr ⟨by simpa using hb, by simpa using h2.symm⟩

theorem lineChar_cases (s : State) (b : Byte) :
    (s.discard = true ∧ s.lineChar b = s) ∨
    (s.discard = false ∧ s.lcur.toNat < s.params.lineCap ∧ s.lineChar b = s.pushChar b) ∨
    (s.discard = false ∧ s.params.lineCap ≤ s.lcur.toNat ∧ s.lineChar b = s.overflowLine) := by
  unfold State.lineChar
  split
  · next hd => exact .inl ⟨hd, rfl⟩
  · next hd =>
    split
    · next hl => exact .inr (.inl ⟨by simpa using hd, hl, rfl⟩)
    · next hl => exact .inr (.inr ⟨by simpa using hd, by omega, rfl⟩)

theorem exec_rxdone_next {s t : State} (h : exec .rxdone s = .next t) :
    s.params.Ok ∧ t = (s.emit .rxRearm).respond { code := .ok } := by
  obtain ⟨h1, h2⟩ := checked_eq_next.mp (show checked s _ = _ from h)
  exact ⟨h1, by simpa using h2.symm⟩

theorem exec_stat_next {s t : State} {sel : BitVec 4} (h : exec (.stat sel) s = .next t) :
    s.params.Ok ∧
    ((∃ x, selectorOf sel = some x ∧
        t = s.respond { code := .value, value := s.statusValue x }) ∨
      (selectorOf sel = none ∧ t = s.respond { code := .errIllegal })) := by
  obtain ⟨h1, h2⟩ := checked_eq_next.mp (show checked s _ = _ from h)
  refine ⟨h1, ?_⟩
  split at h2
  · next x hx => exact .inl ⟨x, hx, by simpa using h2.symm⟩
  · next hx => exact .inr ⟨hx, by simpa using h2.symm⟩

theorem exec_rbWrite_next {s t : State} {len : FrameLen} (h : exec (.rbWrite len) s = .next t) :
    s.params.Ok ∧ len.toNat ≤ s.params.frameCap ∧ t = s.putFrame len := by
  obtain ⟨h1, h2⟩ := checked_eq_next.mp (show checked s _ = _ from h)
  rw [ofExcept_eq_next] at h2
  unfold ringWrite at h2
  split at h2
  · cases h2
  · exact ⟨h1, by omega, by simpa using h2.symm⟩

theorem exec_enc_next {s t : State} {v : Sample} (h : exec (.enc v) s = .next t) :
    s.params.Ok ∧ encodeSample v s = .ok t := by
  obtain ⟨h1, h2⟩ := checked_eq_next.mp (show checked s _ = _ from h)
  exact ⟨h1, ofExcept_eq_next.mp h2⟩

end Sys2Proof.Machine
end

