-- ==== Sys2Proof/Laws/PerInstr.lean ====
section
/-! SUPPORT. Per-request families: each request's word carries the fixed bits of its row of
spec/opcode_table.json. -/

namespace Sys2Proof

/-- The "fixed" entry of a request's row: the lowest fixed bit and the value of bits 31 down to it. -/
def Instr.fixedBits : Instr → Nat × Nat
  | .nop => (0, 0)
  | .tick => (0, 268435456)
  | .acq _ => (16, 8192)
  | .pop => (0, 805306368)
  | .rxb _ => (8, 4194304)
  | .rxdone => (0, 1342177280)
  | .stat _ => (4, 100663296)
  | .rbWrite _ => (7, 16777216)
  | .enc _ => (16, 36864)

namespace Laws.FixedBits

/-- The request's word carries its row's fixed bits. -/
def Statement (i : Instr) : Prop := (encode i).toNat / 2 ^ i.fixedBits.1 = i.fixedBits.2

theorem nop : Statement .nop := by unfold Statement; decide

theorem tick : Statement .tick := by unfold Statement; decide

theorem acq (sample : Sample) : Statement (.acq sample) := by
  have := sample.isLt
  simp only [Statement, encode, Instr.fixedBits, toNat_append_add, BitVec.toNat_ofNat]
  omega

theorem pop : Statement .pop := by unfold Statement; decide

theorem rxb (byte : Byte) : Statement (.rxb byte) := by
  have := byte.isLt
  simp only [Statement, encode, Instr.fixedBits, toNat_append_add, BitVec.toNat_ofNat]
  omega

theorem rxdone : Statement .rxdone := by unfold Statement; decide

theorem stat (sel : BitVec 4) : Statement (.stat sel) := by
  have := sel.isLt
  simp only [Statement, encode, Instr.fixedBits, toNat_append_add, BitVec.toNat_ofNat]
  omega

theorem rbWrite (len : FrameLen) : Statement (.rbWrite len) := by
  have := len.isLt
  simp only [Statement, encode, Instr.fixedBits, toNat_append_add, BitVec.toNat_ofNat]
  omega

theorem enc (sample : Sample) : Statement (.enc sample) := by
  have := sample.isLt
  simp only [Statement, encode, Instr.fixedBits, toNat_append_add, BitVec.toNat_ofNat]
  omega

end Laws.FixedBits

end Sys2Proof
end

