-- ==== Sys2Proof/Laws/Run.lean ====
section
/-! SUPPORT. Runs, one request at a time and one step at a time, and the bit-vector arithmetic of the
registers as arithmetic on natural numbers. -/

namespace Sys2Proof.Machine

/-! ### Runs -/

@[simp] theorem runAll_nil (s : State) : runAll [] s = .next s := rfl

theorem runAll_cons_of_next {i : Instr} {l : List Instr} {s t : State} (h : exec i s = .next t) :
    runAll (i :: l) s = runAll l t := by rw [runAll, h]

/-- A run that reaches a next state began with a request that did. -/
theorem runAll_cons_next {i : Instr} {l : List Instr} {s u : State} (h : runAll (i :: l) s = .next u) :
    ∃ t, exec i s = .next t ∧ runAll l t = .next u := by
  rw [runAll] at h
  split at h
  · next t ht => exact ⟨t, ht, h⟩
  · cases h
  · cases h

theorem runAll_append_of_next {a b : List Instr} {s t : State} (h : runAll a s = .next t) :
    runAll (a ++ b) s = runAll b t := by
  induction a generalizing s with
  | nil => cases h; rfl
  | cons i a ih =>
    obtain ⟨u, hu, ha⟩ := runAll_cons_next h
    rw [List.cons_append, runAll_cons_of_next hu, ih ha]

theorem core_run_zero (s : State) : Host.Core.run Sys2Proof.core 0 s = .next s := rfl

theorem core_run_succ_of_next {s t : State} (k : Nat) (h : step s = .next t) :
    Host.Core.run Sys2Proof.core (k + 1) s = Host.Core.run Sys2Proof.core k t := by
  have unfolded : ∀ (M : Host.Core) (x y : M.State), M.step x = .next y → M.run (k + 1) x = M.run k y := by
    intro M x y hx
    rw [Host.Core.run, hx]
  exact unfolded Sys2Proof.core s t h

/-! ### One step -/

/-- Everything a step that completes can have done. -/
theorem step_next {s t : State} (h : step s = .next t) :
    (s.inputs = [] ∧ s.params.Ok ∧ t = s) ∨
    (∃ req rest i, s.inputs = .request req :: rest ∧ decodeBus req = .ok i ∧
      exec i (s.accept rest) = .next t) ∨
    (∃ req rest e, s.inputs = .request req :: rest ∧ decodeBus req = .error e ∧ s.params.Ok ∧
      t = (s.accept rest).respondError .errIllegal) ∨
    ∃ rest, s.inputs = .reset :: rest ∧ s.params.Ok ∧
      t = { State.resetOf s.params with inputs := rest } := by
  unfold step at h
  split at h
  · next hi =>
    obtain ⟨ok, ht⟩ := checked_eq_next.mp h
    cases ht
    exact .inl ⟨hi, ok, rfl⟩
  · next req rest hi =>
    split at h
    · next i hd => exact .inr (.inl ⟨req, rest, i, hi, hd, h⟩)
    · next e hd =>
      obtain ⟨ok, ht⟩ := checked_eq_next.mp h
      cases ht
      exact .inr (.inr (.inl ⟨req, rest, e, hi, hd, ok, rfl⟩))
  · next rest hi =>
    obtain ⟨ok, ht⟩ := checked_eq_next.mp h
    cases ht
    exact .inr (.inr (.inr ⟨rest, hi, ok, rfl⟩))

/-- A step that takes a word which is no request, under legal parameters. -/
theorem step_of_illegal {s : State} {req : Word} {rest : List Input} {e : Illegal} (h : s.params.Ok)
    (hi : s.inputs = .request req :: rest) (hd : decodeBus req = .error e) :
    step s = .next ((s.accept rest).respondError .errIllegal) := by
  unfold step
  simp only [hi, hd]
  exact checked_of_ok (s := s.accept rest) h _

/-- A step that takes the reset input, under legal parameters. -/
theorem step_of_reset {s : State} {rest : List Input} (h : s.params.Ok) (hi : s.inputs = .reset :: rest) :
    step s = .next { State.resetOf s.params with inputs := rest } := by
  unfold step
  simp only [hi]
  exact checked_of_ok h _

/-! ### Registers as natural numbers -/

/-- Inside a legal frame `flen + 2` does not wrap. -/
theorem flen_add_two_toNat {s : State} (h : s.params.Ok) (hl : s.flen.toNat ≤ s.params.frameCap - 3) :
    (s.flen + 2#7).toNat = s.flen.toNat + 2 := by
  have := Params.ok_frameCap h
  rw [BitVec.toNat_add]; simp; omega

/-- Below `LINE_CAP` `lcur + 1` does not wrap. -/
theorem lcur_add_one_toNat {s : State} (h : s.params.Ok) (hl : s.lcur.toNat < s.params.lineCap) :
    (s.lcur + 1#6).toNat = s.lcur.toNat + 1 := by
  have := Params.ok_lineCap h
  rw [BitVec.toNat_add]; simp; omega

/-- Inside its period `tcount + 1` does not wrap. -/
theorem tcount_add_one_toNat {s : State} (h : s.tcount.toNat < s.activeReload.toNat) :
    (s.tcount + 1#32).toNat = s.tcount.toNat + 1 := by
  have := s.activeReload.isLt
  rw [BitVec.toNat_add]; simp; omega

/-- The two symbols of a sample, by its value (R121). -/
theorem sym_eq (p : Params) (v : Sample) :
    sym p v = [p.alphabet.getD (v.toNat % 64) 0#8, p.alphabet.getD (v.toNat / 64 % 64) 0#8] := by
  have low : (v.extractLsb' 0 6).toNat = v.toNat % 64 := by rw [BitVec.extractLsb'_toNat]; rfl
  have high : (v.extractLsb' 6 6).toNat = v.toNat / 64 % 64 := by
    rw [BitVec.extractLsb'_toNat, Nat.shiftRight_eq_div_pow]
  rw [sym, symbolAt, symbolAt, low, high]

/-- What SEAL and ENC read back from the array they have just written is what they wrote. -/
theorem readN_writeN_self {n : Nat} {m : Cells n} (hm : Cells.wf m) (i : Nat) (bs : List (BitVec n)) {k : Nat}
    (hk : bs.length = k) : Cells.readN (Cells.writeN m i bs) i k = bs := by
  subst hk
  exact Cells.readN_writeN hm i bs

end Sys2Proof.Machine
end

