-- ==== Sys2Proof/Machine/Assembler.lean ====
section
/-! DEFINITION. The textual syntax of bus requests (30_encoding.md R89) and the pseudo-requests (R90).
A line is a list of characters, a mnemonic with its operand. -/

namespace Sys2Proof.Machine

/-- Drop leading blanks. -/
def skipBlanks : List Char → List Char
  | [] => []
  | c :: cs => if c = ' ' ∨ c = '\t' then skipBlanks cs else c :: cs

/-- Drop blanks at both ends. -/
def trimBlanks (cs : List Char) : List Char := (skipBlanks (skipBlanks cs).reverse).reverse

/-- A decimal digit. -/
def decDigit (c : Char) : Option Nat :=
  if 48 ≤ c.toNat ∧ c.toNat ≤ 57 then some (c.toNat - 48) else none

/-- A hexadecimal digit, of either case (log 20). -/
def hexDigit (c : Char) : Option Nat :=
  if 97 ≤ c.toNat ∧ c.toNat ≤ 102 then some (c.toNat - 87)
  else if 65 ≤ c.toNat ∧ c.toNat ≤ 70 then some (c.toNat - 55)
  else decDigit c

/-- The number a list of digits spells, most significant first, after the value `acc`. -/
def digitsFrom (base : Nat) (digit : Char → Option Nat) : Nat → List Char → Option Nat
  | acc, [] => some acc
  | acc, c :: cs =>
    match digit c with
    | some d => digitsFrom base digit (acc * base + d) cs
    | none => none

/-- A number, decimal or `0x` hexadecimal (R89). -/
def parseNumber : List Char → Option Nat
  | [] => none
  | '0' :: 'x' :: c :: cs => digitsFrom 16 hexDigit 0 (c :: cs)
  | c :: cs => digitsFrom 10 decDigit 0 (c :: cs)

/-- A number below a bound. -/
def parseBelow (bound : Nat) (cs : List Char) : Option Nat :=
  (parseNumber cs).filter fun n => decide (n < bound)

/-- A character literal with the escapes of R89. A quoted character stands for its ASCII byte (R8); for one without
an ASCII byte, which R8 and R89 do not speak of, the model takes the byte of its code point where that is 128 to
255, and no literal above (DESIGN CHOICE, log 18; safe: no step reads text). -/
def parseCharLiteral : List Char → Option Nat
  | ['\'', '\\', 'n', '\''] => some 0x0A
  | ['\'', '\\', 'r', '\''] => some 0x0D
  | ['\'', '\\', '\\', '\''] => some 0x5C
  | ['\'', '\\', '\'', '\''] => some 0x27
  | ['\'', c, '\''] => if c = '\\' ∨ c = '\'' ∨ 256 ≤ c.toNat then none else some c.toNat
  | _ => none

/-- The names of the status selectors (R89, R182). -/
def selectorNames : List (List Char × Nat) :=
  [(['C', 'O', 'U', 'N', 'T'], 0), (['W', 'I', 'D', 'X'], 1), (['R', 'I', 'D', 'X'], 2),
    (['L', 'O', 'S', 'T'], 3), (['R', 'A', 'T', 'E'], 4), (['R', 'E', 'L', 'O', 'A', 'D'], 5),
    (['A', 'R', 'E', 'L'], 6), (['T', 'C', 'O', 'U', 'N', 'T'], 7), (['F', 'L', 'A', 'G', 'S'], 8),
    (['L', 'C', 'U', 'R'], 9), (['F', 'L', 'E', 'N'], 10)]

/-- A selector: a number 0..10 or a name (R89). -/
def parseSelector (cs : List Char) : Option Nat :=
  match selectorNames.lookup cs with
  | some n => some n
  | none => parseBelow 11 cs

/-- A request without an operand. -/
def noOperand (operand : List Char) (i : Instr) : Option Instr :=
  if operand = [] then some i else none

/-- One line of R89: `some none` for a comment or a blank line (log 20), `some (some i)` for a request,
`none` for a line the assembler refuses. `RB_WRITE` and `ENC` are refused: no bus word spells them. -/
def assembleLine (line : List Char) : Option (Option Instr) :=
  match trimBlanks line with
  | [] => some none
  | ';' :: _ => some none
  | text =>
    let mnemonic := text.takeWhile fun c => c != ' ' && c != '\t'
    let operand := skipBlanks (text.dropWhile fun c => c != ' ' && c != '\t')
    Option.map some <|
      if mnemonic = ['N', 'O', 'P'] then noOperand operand .nop
      else if mnemonic = ['T', 'I', 'C', 'K'] then noOperand operand .tick
      else if mnemonic = ['P', 'O', 'P'] then noOperand operand .pop
      else if mnemonic = ['R', 'X', 'D', 'O', 'N', 'E'] then noOperand operand .rxdone
      else if mnemonic = ['A', 'C', 'Q'] then
        (parseBelow 65536 operand).map fun n => .acq (BitVec.ofNat 16 n)
      else if mnemonic = ['R', 'X', 'B'] then
        ((parseCharLiteral operand).or (parseBelow 256 operand)).map fun n => .rxb (BitVec.ofNat 8 n)
      else if mnemonic = ['S', 'T', 'A', 'T'] then
        (parseSelector operand).map fun n => .stat (BitVec.ofNat 4 n)
      else none

/-- The pseudo-requests of R90, and sequences of them. -/
inductive Pseudo where
  /-- A real request. -/
  | one (i : Instr)
  /-- `TICKS n`. -/
  | ticks (n : Nat)
  /-- `RXS "text"`, the text as bytes. -/
  | rxs (text : List Byte)
  /-- `ACQS v1, ..., vk`. -/
  | acqs (samples : List Sample)
  /-- One after the other. -/
  | seq (first second : Pseudo)
  /-- `REPEAT n` of a body; program notation (R183). -/
  | rep (n : Nat) (body : Pseudo)
deriving DecidableEq, Repr

/-- The real requests a pseudo-request stands for, in order (R90). -/
def Pseudo.expand : Pseudo → List Instr
  | .one i => [i]
  | .ticks n => List.replicate n .tick
  | .rxs text => text.map Instr.rxb ++ [.rxdone]
  | .acqs samples => samples.map Instr.acq
  | .seq first second => first.expand ++ second.expand
  | .rep n body => (List.replicate n body.expand).flatten

/-- The request words of a program, in order. -/
def Pseudo.words (prog : Pseudo) : List Word := prog.expand.map encode

/-- The transport's duty on chunk sizes: at most RX_CHUNK_MAX bytes (R90, R167). No step reads it (D24). -/
def Pseudo.chunksWithin (rxChunkMax : Nat) : Pseudo → Bool
  | .one _ => true
  | .ticks _ => true
  | .rxs text => decide (text.length ≤ rxChunkMax)
  | .acqs _ => true
  | .seq first second => first.chunksWithin rxChunkMax && second.chunksWithin rxChunkMax
  | .rep _ body => body.chunksWithin rxChunkMax

end Sys2Proof.Machine
end

