-- ==== Sys2Proof/Tests/Slice0.lean ====
section
/-! SUPPORT. The model's own tests, expected results from 95_test_vectors.md (V-D, V-A, V-E, V-R, V-T, V-Q, V-P,
V-S, part 3) unless a comment says otherwise; then, for every statement with hypotheses, a state and operands that
meet them all. -/

open Sys2Proof Sys2Proof.Machine

namespace Sys2Proof.Tests

set_option Elab.async false -- each theorem is checked before the next one is read, so that few threads run

/-! ### Helpers -/

/-- The next state of an outcome. -/
def answers : Result → Option State
  | .next s => some s
  | .fault _ => none
  | .refused _ => none

/-- The fault of an outcome. -/
def faultOf : Result → Option Fault
  | .next _ => none
  | .fault f => some f
  | .refused _ => none

/-- One field of the next state. -/
def after {α : Type} (o : Result) (f : State → α) : Option α := (answers o).map f

theorem next_of_answers {o : Result} {t : State} (h : answers o = some t) : o = .next t := by
  cases o with
  | next s => cases h; rfl
  | fault f => cases h
  | refused f => cases h

theorem completes {o : Result} (h : (answers o).isSome = true) : ∃ t, o = .next t := by
  cases o with
  | next s => exact ⟨s, rfl⟩
  | fault f => cases h
  | refused f => cases h

/-- Cells from index `i` on that hold the bytes of a list with no zero byte in it. -/
def cellsFrom (i : Nat) (bs : List Byte) : Memory := bs.zipIdx i |>.map fun c => (c.2, c.1)

/-- `P48k` with a ring of 4 slots, 4-bit cursors and frames of 5 bytes (program P3, vectors R10, R11). -/
def small : Params := { Config.params with ringSlots := 4, cursorW := 4, frameCap := 5 }

/-- The `small` block after reset. -/
def smallReset : State := State.resetOf small

/-- A `small` ring that has seen six frames, lengths only (vector R7: N = 4, w = 6, r = 0). -/
def overrun : State :=
  { smallReset with slotLen := [(0, 5#7), (1, 5#7), (2, 5#7), (3, 5#7)], w := 6 }

/-- A line under way: `lbuf` and `lcur` hold its characters. -/
def typed (line : List Byte) : State :=
  { State.reset with lbuf := cellsFrom 0 line, lcur := BitVec.ofNat 6 line.length }

/-- A frame with `n` bytes in it, all the symbol `A`. -/
def filled (n : Nat) : State :=
  { State.reset with fbuf := cellsFrom 0 (List.replicate n 0x41#8), flen := BitVec.ofNat 7 n }

/-- A pending expiry (V-Q). -/
def pending : State := { State.reset with irqPending := true }

/-- A timer state (V-T). -/
def timer (count active next : Nat) (irq : Bool) : State :=
  { State.reset with
    tcount := BitVec.ofNat 32 count, activeReload := BitVec.ofNat 32 active
    reload := BitVec.ofNat 32 next, irqPending := irq }

/-- The timer part of a state, in the order of V-T. -/
def timerOf (s : State) : Nat × Nat × Nat × Bool :=
  (s.tcount.toNat, s.activeReload.toNat, s.reload.toNat, s.irqPending)

/-- A state of a run: one sample served, a command line begun (hand calculation from R144, R160). -/
def midRun : State :=
  { State.reset with
    flen := 2#7, fbuf := [(0, 0x46#8), (1, 0x41#8)], bandLed := true, irqPending := true
    lbuf := [(0, 0x32#8)], lcur := 1#6, events := [(2, .adcStart)], stepNo := 4 }

/-! ### Well-formedness: what the check refuses, and what it admits -/

theorem test_selector_11_not_wellFormed : (Instr.stat 11#4).wellFormed = false := by decide

theorem test_selector_15_not_wellFormed : (Instr.stat 15#4).wellFormed = false := by decide

theorem test_selector_10_wellFormed : (Instr.stat 10#4).wellFormed = true := by decide

theorem test_defaults_ok : Config.params.Ok := by decide +kernel

theorem test_small_ok : small.Ok := by decide +kernel

theorem test_bad_params_even_frameCap :
    ¬ ({ small with frameCap := 64 } : Params).Ok := by
  decide +kernel

theorem test_bad_params_slots_not_power_of_two :
    ¬ ({ small with ringSlots := 3 } : Params).Ok := by
  decide +kernel

theorem test_bad_params_slots_above_half_cursor_range :
    ¬ ({ small with ringSlots := 16 } : Params).Ok := by
  decide +kernel

theorem test_bad_params_cursor_of_one_bit :
    ¬ ({ small with cursorW := 1, ringSlots := 1 } : Params).Ok := by
  decide +kernel

theorem test_bad_params_empty_line_buffer :
    ¬ ({ small with lineCap := 0 } : Params).Ok := by
  decide +kernel

theorem test_bad_params_rate_zero :
    ¬ ({ small with rateMin := 0 } : Params).Ok := by
  decide +kernel

theorem test_bad_params_rate_above_16_bits :
    ¬ ({ small with rateMax := 65536, timerClkHz := 70000 } : Params).Ok := by
  decide +kernel

theorem test_bad_params_band_inverted :
    ¬ ({ small with bandLo := 4001 } : Params).Ok := by
  decide +kernel

theorem test_bad_params_band_above_16_bits :
    ¬ ({ small with bandHi := 65536 } : Params).Ok := by
  decide +kernel

theorem test_bad_params_alphabet_with_repeat :
    ¬ ({ small with alphabet := 0x42#8 :: small.alphabet.tail } : Params).Ok := by
  decide +kernel

theorem test_bad_params_alphabet_with_newline :
    ¬ ({ small with alphabet := 0x0A#8 :: small.alphabet.tail, term := 0x0D#8 } : Params).Ok := by
  decide +kernel

theorem test_bad_params_term_in_alphabet :
    ¬ ({ small with term := 0x41#8 } : Params).Ok := by
  decide +kernel

theorem test_bad_params_no_chunk :
    ¬ ({ small with rxChunkMax := 0 } : Params).Ok := by
  decide +kernel

theorem test_bad_params_clock_below_rate :
    ¬ ({ small with timerClkHz := 47999 } : Params).Ok := by
  decide +kernel

theorem test_bad_params_reset_rate_out_of_range :
    ¬ ({ small with resetRate := 999 } : Params).Ok := by
  decide +kernel

/-! ### Decoding: words written bit by bit from R80, R81, R84, R85 -/

theorem test_decode_nop : decodeBus 0b00000000000000000000000000000000#32 = .ok .nop := by decide

theorem test_decode_tick : decodeBus 0b00010000000000000000000000000000#32 = .ok .tick := by decide

theorem test_decode_acq : decodeBus 0b00100000000000000001000010000011#32 = .ok (.acq 0x1083#16) := by decide

theorem test_decode_pop : decodeBus 0b00110000000000000000000000000000#32 = .ok .pop := by decide

theorem test_decode_rxb : decodeBus 0b01000000000000000000000000110010#32 = .ok (.rxb 0x32#8) := by decide

theorem test_decode_rxdone : decodeBus 0b01010000000000000000000000000000#32 = .ok .rxdone := by decide

theorem test_decode_stat : decodeBus 0b01100000000000000000000000000110#32 = .ok (.stat 6#4) := by decide

theorem test_decode_rbWrite : decodeInternal 0b10000000000000000000000001000011#32 = .ok (.rbWrite 67#7) := by decide

theorem test_decode_enc : decodeInternal 0b10010000000000001000000000000001#32 = .ok (.enc 0x8001#16) := by decide

theorem test_illegal_nop_reserved_bit : decodeBus 0x00000001#32 = .error (.reservedBits 0#4) := by decide

theorem test_illegal_acq_bit_16 : decodeBus 0x20010000#32 = .error (.reservedBits 2#4) := by decide

theorem test_illegal_rxb_bit_8 : decodeBus 0x40000100#32 = .error (.reservedBits 4#4) := by decide

theorem test_illegal_stat_selector_11 : decodeBus 0x6000000B#32 = .error (.selector 11#4) := by decide

theorem test_illegal_stat_bits_7_4 : decodeBus 0x600000FF#32 = .error (.reservedBits 6#4) := by decide

theorem test_illegal_opcode_7 : decodeBus 0x70000000#32 = .error (.reservedOpcode 7#4) := by decide

theorem test_illegal_rbWrite_on_bus : decodeBus 0x80000000#32 = .error (.internalOpcode 8#4) := by decide

theorem test_illegal_enc_on_bus : decodeBus 0x90000123#32 = .error (.internalOpcode 9#4) := by decide

theorem test_illegal_opcode_15 : decodeBus 0xF0000000#32 = .error (.reservedOpcode 15#4) := by decide

theorem test_illegal_rbWrite_bit_7 : decodeInternal 0x80000080#32 = .error (.reservedBits 8#4) := by decide

theorem test_illegal_nop_on_internal : decodeInternal 0x00000000#32 = .error (.notInternal 0#4) := by decide

theorem test_table_word_bus : decodeTableWord 32 0x40000041 = some (.rxb 0x41#8) := by decide

theorem test_table_word_internal : decodeTableWord 32 0x8000003F = some (.rbWrite 63#7) := by decide

theorem test_table_word_refused : decodeTableWord 32 0x6000000B = none := by decide

/-- V-D: RXDONE from reset; the first request is step 1 (log 8). -/
theorem test_fetch_rxdone_after_reset : after (step (State.reset.withFetchWord 32 0x50000000))
    (fun s => (s.response, s.events)) = some (some { code := .ok }, [(1, .rxRearm)]) := by decide +kernel

/-- V-D: the word of ENC, presented from outside, is ILLEGAL and changes nothing (R85, R211). -/
theorem test_fetch_enc_after_reset : answers (step (State.reset.withFetchWord 32 0x90000123)) =
    some { State.reset with stepNo := 1, response := some { code := .errIllegal } } := by decide +kernel

theorem test_fetch_illegal_after_reset : after (step (State.reset.withFetchWord 32 0xF0000000)) (·.response) =
    some (some { code := .errIllegal }) := by decide +kernel

theorem test_commit_order : commitOrder [0x60000000#32, 0x4000000A#32, 0x20000005#32, 0x30000000#32, 0x10000000#32] =
    [0x10000000#32, 0x20000005#32, 0x30000000#32, 0x4000000A#32, 0x60000000#32] := by decide

/-! ### The assembler (R89, R90; lines from part 3) -/

theorem test_assemble_acq : assembleLine ['A', 'C', 'Q', ' ', '0', 'x', '0', 'F', 'F', 'F'] =
    some (some (.acq 0x0FFF#16)) := by decide

theorem test_assemble_rxb_escape : assembleLine ['R', 'X', 'B', ' ', '\'', '\\', 'n', '\''] =
    some (some (.rxb 0x0A#8)) := by decide

theorem test_assemble_stat_name : assembleLine ['S', 'T', 'A', 'T', ' ', 'F', 'L', 'A', 'G', 'S'] =
    some (some (.stat 8#4)) := by decide

theorem test_assemble_internal_refused : assembleLine ['E', 'N', 'C', ' ', '1'] = none := by decide

theorem test_rxs_words : (Pseudo.rxs [0x39#8, 0x0D#8]).words = [0x40000039#32, 0x4000000D#32, 0x50000000#32] := by
  decide

/-! ### Meanings -/

theorem test_nop : answers (exec .nop midRun) = some { midRun with response := some { code := .ok } } := by
  decide +kernel

/-- V-S after program P1: FLAGS with `band_led` and, by hand from R182, `irq_pending` set. -/
theorem test_stat_flags : after (exec (.stat 8#4) midRun) (·.response) =
    some (some { code := .value, value := 3#32 }) := by decide +kernel

/-- V-S: after P3's writes COUNT is 4. -/
theorem test_stat_count_full : after (exec (.stat 0#4) overrun) (·.response) =
    some (some { code := .value, value := 4#32 }) := by decide +kernel

/-- V-T, last row: the new reload is latched at the expiry. -/
theorem test_tick_expiry_latches : after (exec .tick (timer 9 9 3 false)) timerOf = some (0, 3, 3, true) := by
  decide +kernel

/-- V-T: the old period runs on. -/
theorem test_tick_counts : after (exec .tick (timer 5 9 3 false)) timerOf = some (6, 9, 3, false) := by decide +kernel

/-- V-Q, sample 4001. -/
theorem test_acq_out_of_band : answers (exec (.acq 4001#16) pending) = some { State.reset with
    bandLed := true, fbuf := [(0, 0x68#8), (1, 0x2B#8)], flen := 2#7, events := [(0, .adcStart)]
    response := some { code := .ok } } := by decide +kernel

/-- V-Q, sample 100. -/
theorem test_acq_in_band : after (exec (.acq 100#16) pending) (fun s => (s.bandLed, s.flen)) =
    some (false, 2#7) := by decide +kernel

/-- V-E, `C = 3`: every ENC seals; the frame is `FA` and the terminator. -/
theorem test_enc_seals : after (exec (.enc 5#16) (State.resetOf { small with frameCap := 3 }))
    (fun s => (s.slotLength 0, s.slotData 0, s.w, s.flen)) = some (3#7, [0x46#8, 0x41#8, 0x0A#8], 1, 0#7) := by
  decide +kernel

/-- V-A, 0x1041: bits 15:12 are dropped. -/
theorem test_enc_symbols : after (exec (.enc 0x1041#16) State.reset) (·.fbuf) =
    some [(0, 0x42#8), (1, 0x42#8)] := by decide +kernel

/-- V-R5: a write into a full ring counts one loss. -/
theorem test_rbWrite_full : after (exec (.rbWrite 63#7) { State.reset with w := 32 })
    (fun s => (s.w, s.r, s.lost, s.events)) = some (33, 0, 1#32, [(0, .sealed 32)]) := by decide +kernel

/-- V-R9: the write cursor wraps, from slot 31. -/
theorem test_rbWrite_wraps : after (exec (.rbWrite 63#7) { State.reset with w := 2 ^ 32 - 1, r := 2 ^ 32 - 1 })
    (fun s => (s.w, s.slotLen, s.lost)) = some (0, [(31, 63#7)], 0#32) := by decide +kernel

/-- V-R7: the catch-up to `w − N`. -/
theorem test_pop_catches_up : after
    (exec .pop { overrun with slotBytes := cellsFrom 10 [0x45#8, 0x41#8, 0x46#8, 0x41#8, 0x0A#8] })
    (fun s => (s.r, s.response)) =
    some (3, some { code := .frame, value := 5#32, data := [0x45#8, 0x41#8, 0x46#8, 0x41#8, 0x0A#8] }) := by
  decide +kernel

/-- V-R10: at distance 2^W the ring looks empty. -/
theorem test_pop_empty : after (exec .pop { overrun with w := 0 }) (fun s => (s.r, s.response)) =
    some (0, some { code := .empty }) := by decide +kernel

/-- V-P 1: the terminator of `24000`. -/
theorem test_rxb_applies : after (exec (.rxb 0x0A#8) (typed [0x32#8, 0x34#8, 0x30#8, 0x30#8, 0x30#8]))
    (fun s => (s.rate, s.reload, s.cmdAck, s.lcur, s.activeReload)) =
    some (24000#16, 1#32, true, 0#6, 0#32) := by decide +kernel

/-- V-P 15: the 33rd character overflows the line. -/
theorem test_rxb_overflows : after (exec (.rxb 0x31#8) (typed (List.replicate 32 0x31#8)))
    (fun s => (s.lcur, s.discard, s.lbuf.length)) = some (0#6, true, 32) := by decide +kernel

/-- V-P 20: a line may span two chunks. -/
theorem test_rxdone : after (exec .rxdone midRun) (fun s => (s.lcur, s.events)) =
    some (1#6, [(2, .adcStart), (4, .rxRearm)]) := by decide +kernel

/-! ### Witnesses: for each statement with hypotheses, a state and operands that meet them all -/

theorem witness_NopOnlyResponds : midRun.params.Ok := by decide +kernel

theorem witness_NopOnlyResponds_illegal : ∀ n ∈ [1, 0x0FFFFFFF], n < 2 ^ 32 ∧ n / 2 ^ 28 = 0 ∧ n ≠ 0 := by decide

theorem witness_StatReturnsSelectedValue_first : overrun.params.Ok ∧ (0#4).toNat ≤ 10 ∧ overrun.cursorsOk ∧
    min ((overrun.w + 2 ^ overrun.params.cursorW - overrun.r) % 2 ^ overrun.params.cursorW)
      overrun.params.ringSlots < 2 ^ 32 := by decide +kernel

/-- A ring of 2^32 slots with six frames in it: COUNT still fits 32 bits. -/
theorem witness_StatReturnsSelectedValue_wide : { small with ringSlots := 2 ^ 32, cursorW := 33 }.Ok ∧
    min ((6 + 2 ^ 33 - 0) % 2 ^ 33) (2 ^ 32) < 2 ^ 32 := by decide +kernel

theorem witness_StatReturnsSelectedValue_last : midRun.params.Ok ∧ (10#4).toNat ≤ 10 := by decide +kernel

theorem witness_StatReturnsSelectedValue_each : ∀ k < 11, (BitVec.ofNat 4 k).toNat ≤ 10 := by decide

theorem witness_StatIllegalSelector : State.reset.params.Ok ∧ 11 ≤ (11#4).toNat ∧ 11 ≤ (15#4).toNat := by
  decide +kernel

theorem witness_TickAdvancesTimer_expiry : ∀ n ∈ [0, 9, 2 ^ 32 - 1], (timer n n 3 true).params.Ok ∧
    (timer n n 3 true).tcount = (timer n n 3 true).activeReload := by decide +kernel

theorem witness_TickAdvancesTimer_count : (timer (2 ^ 32 - 2) (2 ^ 32 - 1) 3 true).params.Ok ∧
    (timer (2 ^ 32 - 2) (2 ^ 32 - 1) 3 true).tcount ≠ (timer (2 ^ 32 - 2) (2 ^ 32 - 1) 3 true).activeReload ∧
    (timer (2 ^ 32 - 2) (2 ^ 32 - 1) 3 true).tcount.toNat + 1 < 2 ^ 32 := by decide +kernel

theorem witness_ExpiryAfterReloadPlusOneTicks : ∃ t, (timer 0 1 1 false).params.Ok ∧
    (timer 0 1 1 false).tcount = 0#32 ∧ runAll [.nop, .tick] (timer 0 1 1 false) = .next t ∧
    [Instr.nop, .tick].count .tick = (timer 0 1 1 false).activeReload.toNat ∧
    (timer 0 1 1 false).irqPending = false := by
  obtain ⟨t, ht⟩ := completes (o := runAll [.nop, .tick] (timer 0 1 1 false)) (by decide +kernel)
  exact ⟨t, by decide +kernel, by decide, ht, by decide, by decide⟩

theorem witness_IrqPendingProtocol_sets : answers (exec .tick State.reset) = some
    { State.reset with irqPending := true, response := some { code := .ok } } ∧
    State.reset.irqPending = false ∧ State.reset.tcount = State.reset.activeReload := by decide +kernel

theorem witness_IrqPendingProtocol_clears : after (exec (.acq 100#16) pending) (·.irqPending) = some false ∧
    pending.irqPending = true := by decide +kernel

theorem witness_ReloadValueFits : Config.params.Ok ∧ Config.params.rateMin ≤ 1000 ∧
    48000 ≤ Config.params.rateMax ∧
    1000 ≤ Config.params.rateMax ∧ Config.params.rateMin ≤ 48000 := by decide +kernel

theorem witness_AcqWithoutPendingExpiry : State.reset.params.Ok ∧ State.reset.irqPending = false := by decide +kernel

theorem witness_AcqServesOneSample : midRun.params.Ok ∧ midRun.irqPending = true ∧ midRun.flen.toNat % 2 = 0 ∧
    midRun.flen.toNat ≤ midRun.params.frameCap - 3 := by decide +kernel

theorem witness_AcqServesOneSample_sealing : { filled 60 with irqPending := true }.params.Ok ∧
    (filled 60).flen.toNat % 2 = 0 ∧ (filled 60).flen.toNat = (filled 60).params.frameCap - 3 := by decide +kernel

theorem witness_EncAppendsTwoSymbols : (filled 58).params.Ok ∧ (filled 58).arraysWf ∧
    (filled 58).flen.toNat % 2 = 0 ∧ (filled 58).flen.toNat + 5 = (filled 58).params.frameCap := by decide +kernel

theorem witness_EncSealsFullFrame : (filled 60).params.Ok ∧ (filled 60).arraysWf ∧ (filled 60).cursorsOk ∧
    (filled 60).flen.toNat + 3 = (filled 60).params.frameCap ∧
    0 = (filled 60).w % (filled 60).params.ringSlots * (filled 60).params.frameCap := by decide +kernel

theorem witness_SealIsRbWriteOfTheFrame : (filled 60).params.Ok ∧
    (filled 60).flen.toNat + 3 = (filled 60).params.frameCap := by decide +kernel

theorem witness_EncoderStateFaultExactly : (filled 62).params.Ok ∧
    faultOf (exec (.enc 0#16) (filled 62)) = some (.encoderState 62#7) ∧
    faultOf (exec (.enc 0#16) (filled 59)) = some (.encoderState 59#7) ∧
    faultOf (exec (.enc 0#16) (filled 60)) = none := by decide +kernel

theorem witness_SealedFrameFormat : smallReset.params.Ok ∧ smallReset.arraysWf ∧ smallReset.flen = 0#7 ∧
    [7#16].length < smallReset.params.samplesPerFrame ∧
    [7#16, 8#16].length = smallReset.params.samplesPerFrame := by decide +kernel

theorem witness_SymbolsDetermineLowBits : Config.params.Ok ∧ (0x1041#16).toNat % 4096 = (0x0041#16).toNat % 4096 :=
  by decide +kernel

theorem witness_RbWriteWritesOneSlot : (filled 62).params.Ok ∧ (filled 62).arraysWf ∧ (filled 62).cursorsOk ∧
    0 = (filled 62).w % (filled 62).params.ringSlots * (filled 62).params.frameCap ∧
    (63#7).toNat = (filled 62).params.frameCap ∧ (filled 62).params.frameCap < (64#7).toNat := by decide +kernel

theorem witness_PopEmptyChangesNothing : smallReset.params.Ok ∧ smallReset.cursorsOk ∧
    smallReset.w = smallReset.r := by decide +kernel

/-- The distances 1, N, N + 1 and 2^W − 1. -/
theorem witness_PopReturnsOldestFrame : ∀ d ∈ [1, 4, 5, 15], small.Ok ∧ { overrun with w := d }.cursorsOk ∧
    d = (d + 2 ^ small.cursorW - overrun.r) % 2 ^ small.cursorW ∧ d ≠ 0 ∧
    (overrun.slotLength ((if small.ringSlots < d then
      (d + 2 ^ small.cursorW - small.ringSlots) % 2 ^ small.cursorW else overrun.r) % small.ringSlots)).toNat ≤
      small.frameCap := by decide +kernel

/-- Every slot of `overrun` has a length of at most C. -/
theorem overrun_lengths (k : Nat) : (overrun.slotLength k).toNat ≤ overrun.params.frameCap := by
  change (Cells.read [(0, 5#7), (1, 5#7), (2, 5#7), (3, 5#7)] k).toNat ≤ 5
  have listed : ∀ c ∈ [(0, 5#7), (1, 5#7), (2, 5#7), (3, 5#7)], (Prod.snd c).toNat ≤ 5 := by decide
  rcases Cells.read_mem_or_unwritten [(0, 5#7), (1, 5#7), (2, 5#7), (3, 5#7)] k with h | h
  · rw [h]; decide
  · exact listed _ h

theorem witness_PopLowersReadableCount : overrun.params.Ok ∧ overrun.cursorsOk ∧ overrun.w ≠ overrun.r ∧
    ∀ k, (overrun.slotLength k).toNat ≤ overrun.params.frameCap :=
  ⟨by decide +kernel, by decide, by decide, overrun_lengths⟩

theorem witness_ReadableCountIsPopsBeforeEmpty : overrun.params.Ok ∧ overrun.cursorsOk ∧
    ∀ k, (overrun.slotLength k).toNat ≤ overrun.params.frameCap :=
  ⟨by decide +kernel, by decide, overrun_lengths⟩

/-- Twelve frames: the aliasing bound of R225 for N = 4, W = 4. -/
theorem witness_LossyOverflowKeepsNewestFrames : smallReset.params.Ok ∧ smallReset.arraysWf ∧
    smallReset.cursorsOk ∧ smallReset.w = smallReset.r ∧
    (∀ f ∈ List.replicate 12 [0x45#8, 0x41#8, 0x46#8, 0x41#8, 0x0A#8], f.length = smallReset.params.frameCap) ∧
    (List.replicate 12 [0x45#8, 0x41#8, 0x46#8, 0x41#8, 0x0A#8]).length =
      2 ^ smallReset.params.cursorW - smallReset.params.ringSlots := by decide +kernel

theorem witness_RxbStoresOrDropsCharacter_discard : { State.reset with discard := true }.params.Ok ∧
    Memory.wf { State.reset with discard := true }.lbuf ∧ 0x31#8 ≠ 0x0A#8 ∧ 0x31#8 ≠ 0x0D#8 ∧
    { State.reset with discard := true }.discard = true := by decide +kernel

theorem witness_RxbStoresOrDropsCharacter_last : (typed (List.replicate 31 0x31#8)).params.Ok ∧
    Memory.wf (typed (List.replicate 31 0x31#8)).lbuf ∧ (typed (List.replicate 31 0x31#8)).discard = false ∧
    (typed (List.replicate 31 0x31#8)).lcur.toNat + 1 = (typed (List.replicate 31 0x31#8)).params.lineCap := by
  decide +kernel

theorem witness_RxbStoresOrDropsCharacter_full : (typed (List.replicate 32 0x31#8)).params.Ok ∧
    Memory.wf (typed (List.replicate 32 0x31#8)).lbuf ∧ (typed (List.replicate 32 0x31#8)).discard = false ∧
    (typed (List.replicate 32 0x31#8)).params.lineCap = (typed (List.replicate 32 0x31#8)).lcur.toNat := by
  decide +kernel

/-- What `RxbAppliesAcceptedLine` asks of a line and its value. -/
abbrev Accepted (s : State) (n : Nat) : Prop :=
  s.params.Ok ∧ s.discard = false ∧ 1 ≤ s.lcur.toNat ∧ s.lcur.toNat ≤ s.params.lineCap ∧
  (∀ i < s.lcur.toNat, 0x30 ≤ (Cells.read s.lbuf i).toNat ∧ (Cells.read s.lbuf i).toNat ≤ 0x39) ∧
  (n = ∑ i ∈ Finset.range s.lcur.toNat,
    ((Cells.read s.lbuf i).toNat - 0x30) * 10 ^ (s.lcur.toNat - 1 - i)) ∧
  s.params.rateMin ≤ n ∧ n ≤ s.params.rateMax

theorem witness_RxbAppliesAcceptedLine_low : Accepted (typed [0x31#8, 0x30#8, 0x30#8, 0x30#8]) 1000 := by
  decide +kernel

theorem witness_RxbAppliesAcceptedLine_high : Accepted (typed [0x34#8, 0x38#8, 0x30#8, 0x30#8, 0x30#8]) 48000 := by
  decide +kernel

/-- V-P 16: a line that fills the buffer. -/
theorem witness_RxbAppliesAcceptedLine_full :
    Accepted (typed (List.replicate 28 0x30#8 ++ [0x32#8, 0x30#8, 0x30#8, 0x30#8])) 2000 := by decide +kernel

theorem witness_RxbDiscardsRejectedLine_overflowed : { State.reset with discard := true }.params.Ok ∧
    { State.reset with discard := true }.discard = true := by decide +kernel

theorem witness_RxbDiscardsRejectedLine_empty : State.reset.params.Ok ∧
    State.reset.lcur.toNat ≤ State.reset.params.lineCap ∧ State.reset.lcur = 0#6 := by decide +kernel

/-- The bytes next to the digits on either side: 0x2F and 0x3A. -/
theorem witness_RxbDiscardsRejectedLine_noDigit : ∀ b ∈ [0x2F#8, 0x3A#8], (typed [0x31#8, b]).params.Ok ∧
    (typed [0x31#8, b]).lcur.toNat ≤ (typed [0x31#8, b]).params.lineCap ∧
    ∃ i < (typed [0x31#8, b]).lcur.toNat, (Cells.read (typed [0x31#8, b]).lbuf i).toNat < 0x30 ∨
      0x39 < (Cells.read (typed [0x31#8, b]).lbuf i).toNat := by decide +kernel

/-- The value of a pending line, as `RxbDiscardsRejectedLine` states it. -/
abbrev lineSum (s : State) : Nat :=
  ∑ i ∈ Finset.range s.lcur.toNat, ((Cells.read s.lbuf i).toNat - 0x30) * 10 ^ (s.lcur.toNat - 1 - i)

theorem witness_RxbDiscardsRejectedLine_low : (typed [0x39#8, 0x39#8, 0x39#8]).params.Ok ∧
    lineSum (typed [0x39#8, 0x39#8, 0x39#8]) + 1 = (typed [0x39#8, 0x39#8, 0x39#8]).params.rateMin := by
  decide +kernel

theorem witness_RxbDiscardsRejectedLine_high : (typed [0x34#8, 0x38#8, 0x30#8, 0x30#8, 0x31#8]).params.Ok ∧
    lineSum (typed [0x34#8, 0x38#8, 0x30#8, 0x30#8, 0x31#8]) =
      (typed [0x34#8, 0x38#8, 0x30#8, 0x30#8, 0x31#8]).params.rateMax + 1 := by decide +kernel

theorem witness_RateCommandSetsRate : ∀ n ∈ [1000, 48000], State.reset.params.Ok ∧ State.reset.arraysWf ∧
    State.reset.discard = false ∧ State.reset.lcur = 0#6 ∧ State.reset.params.rateMin ≤ n ∧
    n ≤ State.reset.params.rateMax ∧ (Nat.digits 10 n).length ≤ State.reset.params.lineCap := by decide +kernel

theorem witness_OverflowedLineAppliesNothing : State.reset.params.Ok ∧ State.reset.discard = false ∧
    State.reset.lcur.toNat ≤ State.reset.params.lineCap ∧
    (∀ c ∈ List.replicate 33 0x31#8, c ≠ 0x0A#8 ∧ c ≠ 0x0D#8) ∧
    State.reset.params.lineCap + 1 = State.reset.lcur.toNat + (List.replicate 33 0x31#8).length := by decide +kernel

theorem witness_ParserNeverFaults : midRun.Inv ∧
    ∀ i ∈ [Instr.rxb 0x0A#8, .rxdone, .rxb 0xFF#8], i = .rxdone ∨ ∃ b, i = .rxb b := by
  refine ⟨by decide +kernel, fun i hi => ?_⟩
  simp only [List.mem_cons, List.not_mem_nil, or_false] at hi
  rcases hi with rfl | rfl | rfl
  · exact .inr ⟨_, rfl⟩
  · exact .inl rfl
  · exact .inr ⟨_, rfl⟩

theorem witness_RxdoneRearmsTransport : midRun.params.Ok := by decide +kernel

theorem witness_DecodeOfEncode : ∀ i ∈ [Instr.nop, .tick, .acq 0xFFFF#16, .pop, .rxb 0xFF#8, .rxdone, .stat 10#4,
    .rbWrite 127#7, .enc 0xFFFF#16], i.wellFormed = true := by decide

theorem witness_EncodeOfDecode : decodeOn .bus 0x6000000A#32 = .ok (.stat 10#4) ∧
    decodeOn .internal 0x8000007F#32 = .ok (.rbWrite 127#7) := by decide

/-- The clauses of `IllegalBusWordsAreAnswered`. -/
abbrev IllegalFields (op low : Nat) : Prop :=
  op = 0 ∧ low ≠ 0 ∨ op = 1 ∧ low ≠ 0 ∨ op = 2 ∧ 2 ^ 16 ≤ low ∨ op = 3 ∧ low ≠ 0 ∨
    op = 4 ∧ 2 ^ 8 ≤ low ∨ op = 5 ∧ low ≠ 0 ∨ op = 6 ∧ 11 ≤ low ∨ 7 ≤ op

/-- The first and the last word of each clause, as numbers. -/
theorem witness_IllegalBusWordsAreAnswered_words :
    ∀ req ∈ [0x00000001, 0x0FFFFFFF, 0x10000001, 0x1FFFFFFF, 0x20010000, 0x2FFFFFFF, 0x30000001, 0x3FFFFFFF,
      0x40000100, 0x4FFFFFFF, 0x50000001, 0x5FFFFFFF, 0x6000000B, 0x6FFFFFFF, 0x70000000, 0x80000000, 0x90000123,
      0xFFFFFFFF], IllegalFields (req / 2 ^ 28) (req % 2 ^ 28) := by decide

theorem witness_IllegalBusWordsAreAnswered : State.reset.params.Ok ∧
    { State.reset with inputs := [.request 0x6000000B#32] }.inputs = .request 0x6000000B#32 :: [] ∧
    IllegalFields ((0x6000000B#32).toNat / 2 ^ 28) ((0x6000000B#32).toNat % 2 ^ 28) := by decide +kernel

theorem witness_StepRunsDecodedRequest :
    { midRun with inputs := [.request 0x20000FFF#32] }.inputs = .request 0x20000FFF#32 :: [] ∧
    decodeBus 0x20000FFF#32 = .ok (.acq 0x0FFF#16) := by decide

/-- An ENC word on the request interface, which no ACQ and no POP is. -/
theorem witness_OnlyAcqStepsEncodeAndWriteTheRing : ∃ t,
    { midRun with inputs := [.request 0x90000123#32] }.inputs = .request 0x90000123#32 :: [] ∧
    step { midRun with inputs := [.request 0x90000123#32] } = .next t ∧
    (∀ v, decodeBus 0x90000123#32 ≠ .ok (.acq v)) ∧ decodeBus 0x90000123#32 ≠ .ok .pop := by
  obtain ⟨t, ht⟩ := completes (o := step { midRun with inputs := [.request 0x90000123#32] }) (by decide +kernel)
  have illegal : decodeBus 0x90000123#32 = .error (.internalOpcode 9#4) := by decide
  refine ⟨t, rfl, ht, fun v h => ?_, fun h => ?_⟩ <;> (rw [illegal] at h; cases h)

/-- One word of each place of R206. -/
theorem witness_CommitOrderSorts : [0x10000000#32, 0x20000005#32, 0x30000000#32, 0x4000000A#32, 0x50000000#32,
    0x60000000#32, 0x00000000#32].map (fun req => (decodeBus req).toOption) =
    [some .tick, some (.acq 5#16), some .pop, some (.rxb 0x0A#8), some .rxdone, some (.stat 0#4), some .nop] := by
  decide

theorem witness_StepWithoutInputWaits : midRun.params.Ok ∧ midRun.inputs = [] := by decide +kernel

theorem witness_EveryBusWordIsAnswered : ∃ t, { midRun with inputs := [.request 0x30000000#32] }.inputs =
    .request 0x30000000#32 :: [] ∧ step { midRun with inputs := [.request 0x30000000#32] } = .next t := by
  obtain ⟨t, ht⟩ := completes (o := step { midRun with inputs := [.request 0x30000000#32] }) (by decide +kernel)
  exact ⟨t, rfl, ht⟩

theorem witness_OnlyAcqReportsError : (Instr.acq 5#16).wellFormed = true ∧ State.reset.response = none ∧
    answers (exec (.acq 5#16) State.reset) =
      some { State.reset with response := some { code := .errNotPending } } := by decide +kernel

theorem witness_BadConfigFaults : ¬ { State.reset with params := { small with frameCap := 64 } }.params.Ok := by
  decide +kernel

theorem witness_HandBuiltStatesFault_tick : (timer (2 ^ 32 - 1) 9 3 true).params.Ok ∧
    (timer (2 ^ 32 - 1) 9 3 true).tcount ≠ (timer (2 ^ 32 - 1) 9 3 true).activeReload ∧
    (timer (2 ^ 32 - 1) 9 3 true).tcount.toNat = 2 ^ 32 - 1 := by decide +kernel

/-- Slot 2 is the one that `overrun` reads next. -/
theorem witness_HandBuiltStatesFault_pop : { overrun with slotLen := [(2, 6#7)] }.params.Ok ∧
    { overrun with slotLen := [(2, 6#7)] }.cursorsOk ∧ overrun.w ≠ overrun.r ∧
    2 = (if small.ringSlots < (overrun.w + 2 ^ small.cursorW - overrun.r) % 2 ^ small.cursorW then
      (overrun.w + 2 ^ small.cursorW - small.ringSlots) % 2 ^ small.cursorW else overrun.r) ∧
    small.frameCap < ({ overrun with slotLen := [(2, 6#7)] }.slotLength (2 % small.ringSlots)).toNat := by
  decide +kernel

theorem witness_HandBuiltStatesFault_line : { State.reset with lcur := 33#6 }.params.Ok ∧
    { State.reset with lcur := 33#6 }.discard = false ∧
    { State.reset with lcur := 33#6 }.params.lineCap < { State.reset with lcur := 33#6 }.lcur.toNat := by
  decide +kernel

theorem witness_HandBuiltStatesFault_acq : ∀ n ∈ [1, 61, 62], { pending with flen := BitVec.ofNat 7 n }.params.Ok ∧
    { pending with flen := BitVec.ofNat 7 n }.irqPending = true ∧
    ({ pending with flen := BitVec.ofNat 7 n }.params.frameCap - 3 < (BitVec.ofNat 7 n).toNat ∨
      (BitVec.ofNat 7 n).toNat % 2 = 1) := by decide +kernel

theorem witness_ResetInputRestoresResetValues : { midRun with inputs := [.reset] }.params.Ok ∧
    { midRun with inputs := [.reset] }.inputs = .reset :: [] := by decide +kernel

theorem witness_ResetSatisfiesInvariant : small.Ok := test_small_ok

theorem witness_StepKeepsInvariant : ∃ t, { midRun with inputs := [.request 0x10000000#32, .reset] }.Inv ∧
    step { midRun with inputs := [.request 0x10000000#32, .reset] } = .next t := by
  obtain ⟨t, ht⟩ := completes (o := step { midRun with inputs := [.request 0x10000000#32, .reset] })
    (by decide +kernel)
  exact ⟨t, by decide +kernel, ht⟩

theorem witness_StepCompletesUnderInvariant : midRun.Inv := by decide +kernel

theorem witness_RunFromResetNeverFaults : small.Ok := test_small_ok

theorem witness_StepKeepsArraysCanonical : ∃ t, { midRun with inputs := [.request 0x20000005#32] }.arraysWf ∧
    step { midRun with inputs := [.request 0x20000005#32] } = .next t := by
  obtain ⟨t, ht⟩ := completes (o := step { midRun with inputs := [.request 0x20000005#32] }) (by decide +kernel)
  exact ⟨t, by decide, ht⟩

theorem witness_EventsAppendOnly : ∃ t, exec (.acq 5#16) midRun = .next t :=
  completes (by decide +kernel)

/-- One request of each agent, at a state that runs them all. -/
theorem witness_SingleWriterOwnership : ∀ i ∈ [Instr.tick, .acq 5#16, .pop, .rxb 0x0A#8, .stat 0#4],
    ∃ t, exec i midRun = .next t := by
  intro i hi
  apply completes
  revert i
  decide +kernel

end Sys2Proof.Tests
end

-- The scope statements (00_scope.md): the step and its answers, completion, the stops outside R52.
section
/-! PROOFS. First the equations of the step and of each bus request, one per branch of its meaning; then what
the invariant says of the operands those branches test; then the obligations of 00_scope.md. -/

namespace Sys2Proof.Machine

/-! ### The step, by the next input -/

/-- A step with nothing presented, under legal parameters. -/
theorem step_of_no_input {s : State} (h : s.params.Ok) (hi : s.inputs = []) : step s = .next s := by
  unfold step
  simp only [hi]
  exact checked_of_ok h _

/-- A step that takes a word which decodes to a request. -/
theorem step_of_request {s : State} {req : Word} {rest : List Input} {i : Instr}
    (hi : s.inputs = .request req :: rest) (hd : decodeBus req = .ok i) :
    step s = exec i (s.accept rest) := by
  unfold step
  simp only [hi, hd]

/-! ### What each bus request answers, one equation per branch of its meaning -/

section Equations

variable {s : State} (h : s.params.Ok)
include h

theorem exec_nop_eq : exec .nop s = .next (s.respond { code := .ok }) := checked_of_ok h _

theorem exec_rxdone_eq : exec .rxdone s = .next ((s.emit .rxRearm).respond { code := .ok }) :=
  checked_of_ok h _

theorem exec_stat_of_selector {sel : BitVec 4} {x : Selector} (hx : selectorOf sel = some x) :
    exec (.stat sel) s = .next (s.respond { code := .value, value := s.statusValue x }) :=
  (checked_of_ok h _).trans (by rw [hx])

theorem exec_stat_of_no_selector {sel : BitVec 4} (hx : selectorOf sel = none) :
    exec (.stat sel) s = .next (s.respond { code := .errIllegal }) :=
  (checked_of_ok h _).trans (by rw [hx]; rfl)

theorem exec_tick_of_expiry (he : s.tcount = s.activeReload) :
    exec .tick s = .next (s.expire.respond { code := .ok }) :=
  (checked_of_ok h _).trans (if_pos he)

theorem exec_tick_of_fits (he : s.tcount ≠ s.activeReload) (hb : s.tcount.toNat + 1 < 2 ^ 32) :
    exec .tick s = .next (s.countTick.respond { code := .ok }) :=
  (checked_of_ok h _).trans ((if_neg he).trans (if_pos hb))

/-- Short of the expiry, a count that does not fit `tcount` (R9; log 10). -/
theorem exec_tick_of_overflow (he : s.tcount ≠ s.activeReload) (hb : 2 ^ 32 ≤ s.tcount.toNat + 1) :
    exec .tick s = .fault (.registerRange (s.tcount.toNat + 1)) :=
  (checked_of_ok h _).trans ((if_neg he).trans (if_neg (Nat.not_lt.mpr hb)))

theorem exec_acq_of_not_pending {v : Sample} (hp : s.irqPending = false) :
    exec (.acq v) s = .next (s.respond { code := .errNotPending }) :=
  (checked_of_ok h _).trans (if_neg (by simp [hp]))

theorem exec_acq_of_encoded {v : Sample} {t : State} (hp : s.irqPending = true)
    (he : encodeSample v ((s.emit .adcStart).bandCheck v) = .ok t) :
    exec (.acq v) s = .next (t.clearIrq.respond { code := .ok }) :=
  (checked_of_ok h _).trans ((if_pos hp).trans (by rw [he]; rfl))

theorem exec_acq_of_encoder_fault {v : Sample} {f : Fault} (hp : s.irqPending = true)
    (he : encodeSample v ((s.emit .adcStart).bandCheck v) = .error f) :
    exec (.acq v) s = .fault f :=
  (checked_of_ok h _).trans ((if_pos hp).trans (by rw [he]))

theorem exec_pop_of_empty (hd : s.distance = 0) : exec .pop s = .next (s.respond { code := .empty }) :=
  (checked_of_ok h _).trans (if_pos hd)

theorem exec_pop_of_frame (hd : s.distance ≠ 0)
    (hl : (s.slotLength s.readSlot).toNat ≤ s.params.frameCap) :
    exec .pop s = .next (s.advanceR.respond (s.frameResponse s.readSlot)) :=
  (checked_of_ok h _).trans ((if_neg hd).trans (if_neg (Nat.not_lt.mpr hl)))

/-- A slot longer than its bytes (R30; log 11). -/
theorem exec_pop_of_long_slot (hd : s.distance ≠ 0)
    (hl : s.params.frameCap < (s.slotLength s.readSlot).toNat) :
    exec .pop s = .fault (.noSuchByte s.params.frameCap) :=
  (checked_of_ok h _).trans ((if_neg hd).trans (if_pos hl))

theorem exec_rxb_of_char {b : Byte} (hb : isTerminator b = false) :
    exec (.rxb b) s = .next ((s.lineChar b).respond { code := .ok }) :=
  (checked_of_ok h _).trans (if_neg (by simp [hb]))

theorem exec_rxb_of_lineEnd {b : Byte} {t : State} (hb : isTerminator b = true) (he : lineEnd s = .ok t) :
    exec (.rxb b) s = .next (t.respond { code := .ok }) :=
  (checked_of_ok h _).trans ((if_pos hb).trans (by rw [he]; rfl))

theorem exec_rxb_of_lineEnd_fault {b : Byte} {f : Fault} (hb : isTerminator b = true)
    (he : lineEnd s = .error f) : exec (.rxb b) s = .fault f :=
  (checked_of_ok h _).trans ((if_pos hb).trans (by rw [he]))

end Equations

/-! ### The shared operations, one equation per branch -/

/-- R161: the two bytes that end a line. -/
theorem isTerminator_iff (b : Byte) : isTerminator b = true ↔ b = 0x0A#8 ∨ b = 0x0D#8 := by
  simp [isTerminator]

theorem memRead_of_lt {size i count : Nat} {m : Memory} (h : size < i + count) :
    memRead size m i count = .error (.noSuchByte size) := if_neg (Nat.not_le.mpr h)

theorem lineEnd_of_discard {s : State} (hd : s.discard = true) : lineEnd s = .ok s.endLine := if_pos hd

theorem lineEnd_of_fits {s : State} (hd : s.discard = false) (hl : s.lcur.toNat ≤ s.params.lineCap) :
    lineEnd s = .ok (s.applyLine (Cells.readN s.lbuf 0 s.lcur.toNat)).endLine := by
  have hline : s.lineBytes = .ok (Cells.readN s.lbuf 0 s.lcur.toNat) := memRead_of_le (by omega)
  rw [lineEnd, if_neg (by simp [hd]), hline]

/-- A line longer than its buffer (R44; log 11). -/
theorem lineEnd_of_long_line {s : State} (hd : s.discard = false) (hl : s.params.lineCap < s.lcur.toNat) :
    lineEnd s = .error (.noSuchByte s.params.lineCap) := by
  have hline : s.lineBytes = .error (.noSuchByte s.params.lineCap) := memRead_of_lt (by omega)
  rw [lineEnd, if_neg (by simp [hd]), hline]

/-- R122, R203: the one fault of ENC. -/
theorem encodeSample_of_bad_flen {s : State} {v : Sample}
    (hf : s.params.frameCap - 3 < s.flen.toNat ∨ s.flen.toNat % 2 = 1) :
    encodeSample v s = .error (.encoderState s.flen) := if_pos hf

/-- R52 (i) is what ENC needs to complete. -/
theorem encodeSample_completes {s : State} (h : s.params.Ok) (he : s.encoderOk) (v : Sample) :
    ∃ t, encodeSample v s = .ok t := by
  obtain ⟨heven, hle⟩ := he
  rw [encodeSample_eq h, if_neg (by omega)]
  split <;> exact ⟨_, rfl⟩

/-! ### The ring's cursors, as the differences of R34 and R101 -/

/-- `d = w −_W r` of two W-bit cursors is 0 only where they are equal (R34). -/
theorem distance_eq_zero_iff {s : State} (hc : s.cursorsOk) : s.distance = 0 ↔ s.w = s.r := by
  obtain ⟨hw, hr⟩ := hc
  rw [State.distance, subW_cases hw hr]
  split <;> omega

/-- The catch-up of R101, with both differences written out. -/
theorem readCursor_eq {s : State} (h : s.params.Ok) (hc : s.cursorsOk) :
    s.readCursor =
      if s.params.ringSlots < (s.w + 2 ^ s.params.cursorW - s.r) % 2 ^ s.params.cursorW then
        (s.w + 2 ^ s.params.cursorW - s.params.ringSlots) % 2 ^ s.params.cursorW else s.r := by
  have hN : s.params.ringSlots < 2 ^ s.params.cursorW := by
    have := Params.ok_two_ringSlots h
    have := Params.ok_ringSlots_pos h
    omega
  rw [State.readCursor, State.distance, subW_of_lt _ hc.2, subW_of_lt _ hN]

/-! ### What the invariant says of the operands a request tests -/

/-- R52 (v) bounds every slot length: a listed one is C, an unlisted one reads as 0. -/
theorem slotLength_le_frameCap {s : State} (hs : s.slotsSealed) (k : Nat) :
    (s.slotLength k).toNat ≤ s.params.frameCap := by
  rcases Cells.read_mem_or_unwritten s.slotLen k with hu | hm
  · rw [State.slotLength, hu]
    exact Nat.zero_le _
  · exact (hs _ hm).le

/-- R52 (ii) leaves room for one more TICK short of the expiry. -/
theorem tcount_succ_lt_of_timerOk {s : State} (ht : s.timerOk) (he : s.tcount ≠ s.activeReload) :
    s.tcount.toNat + 1 < 2 ^ 32 := by
  have hne : s.tcount.toNat ≠ s.activeReload.toNat := fun hn => he (BitVec.eq_of_toNat_eq hn)
  have := s.activeReload.isLt
  unfold State.timerOk at ht
  omega

/-- No part of the invariant speaks of what `accept` writes. -/
theorem inv_accept_iff (s : State) (rest : List Input) : (s.accept rest).Inv ↔ s.Inv := Iff.rfl

/-! ### Every bus request completes under the invariant (R12, R203) -/

section Completes

variable {s : State} (h : s.params.Ok)
include h

theorem exec_tick_completes (ht : s.timerOk) : ∃ t, exec .tick s = .next t := by
  by_cases he : s.tcount = s.activeReload
  · exact ⟨_, exec_tick_of_expiry h he⟩
  · exact ⟨_, exec_tick_of_fits h he (tcount_succ_lt_of_timerOk ht he)⟩

theorem exec_acq_completes (he : s.encoderOk) (v : Sample) : ∃ t, exec (.acq v) s = .next t := by
  cases hp : s.irqPending with
  | false => exact ⟨_, exec_acq_of_not_pending h hp⟩
  | true =>
    obtain ⟨t, ht⟩ := encodeSample_completes (s := (s.emit .adcStart).bandCheck v) h he v
    exact ⟨_, exec_acq_of_encoded h hp ht⟩

theorem exec_pop_completes (hs : s.slotsSealed) : ∃ t, exec .pop s = .next t := by
  by_cases hd : s.distance = 0
  · exact ⟨_, exec_pop_of_empty h hd⟩
  · exact ⟨_, exec_pop_of_frame h hd (slotLength_le_frameCap hs _)⟩

theorem exec_rxb_completes (hp : s.parserOk) (b : Byte) : ∃ t, exec (.rxb b) s = .next t := by
  cases hb : isTerminator b with
  | false => exact ⟨_, exec_rxb_of_char h hb⟩
  | true =>
    cases hd : s.discard with
    | true => exact ⟨_, exec_rxb_of_lineEnd h hb (lineEnd_of_discard hd)⟩
    | false => exact ⟨_, exec_rxb_of_lineEnd h hb (lineEnd_of_fits hd hp.1)⟩

theorem exec_stat_completes (sel : BitVec 4) : ∃ t, exec (.stat sel) s = .next t := by
  cases hx : selectorOf sel with
  | some x => exact ⟨_, exec_stat_of_selector h hx⟩
  | none => exact ⟨_, exec_stat_of_no_selector h hx⟩

end Completes

/-- RB_WRITE is left out: its length operand, which no word on the bus carries, is what can fault (R100). -/
theorem exec_completes_of_bus {s : State} (hinv : s.Inv) {i : Instr} (hi : i.path = .bus) :
    ∃ t, exec i s = .next t := by
  obtain ⟨hok, -, -, -, henc, htimer, -, hparser, hslots⟩ := hinv
  cases i with
  | nop => exact ⟨_, exec_nop_eq hok⟩
  | tick => exact exec_tick_completes hok htimer
  | acq v => exact exec_acq_completes hok henc v
  | pop => exact exec_pop_completes hok hslots
  | rxb b => exact exec_rxb_completes hok hparser b
  | rxdone => exact ⟨_, exec_rxdone_eq hok⟩
  | stat sel => exact exec_stat_completes hok sel
  | rbWrite len => cases hi
  | enc v => cases hi

/-! ### Every bus request ends by responding (R88) -/

/-- A bus request that answers a next state leaves its own response there. -/
theorem exec_responds_of_bus {s t : State} {i : Instr} (hi : i.path = .bus) (he : exec i s = .next t) :
    ∃ u resp, t = State.respond u resp := by
  cases i with
  | nop => exact ⟨_, _, (exec_nop_next he).2⟩
  | tick =>
    rcases (exec_tick_next he).2 with ⟨-, ht⟩ | ⟨-, -, ht⟩
    · exact ⟨_, _, ht⟩
    · exact ⟨_, _, ht⟩
  | acq v =>
    rcases (exec_acq_next he).2 with ⟨-, ht⟩ | ⟨-, u, -, ht⟩
    · exact ⟨_, _, ht⟩
    · exact ⟨_, _, ht⟩
  | pop =>
    rcases (exec_pop_next he).2 with ⟨-, ht⟩ | ⟨-, -, ht⟩
    · exact ⟨_, _, ht⟩
    · exact ⟨_, _, ht⟩
  | rxb b =>
    rcases (exec_rxb_next he).2 with ⟨-, u, -, ht⟩ | ⟨-, ht⟩
    · exact ⟨_, _, ht⟩
    · exact ⟨_, _, ht⟩
  | rxdone => exact ⟨_, _, (exec_rxdone_next he).2⟩
  | stat sel =>
    rcases (exec_stat_next he).2 with ⟨x, -, ht⟩ | ⟨-, ht⟩
    · exact ⟨_, _, ht⟩
    · exact ⟨_, _, ht⟩
  | rbWrite len => cases hi
  | enc v => cases hi

/-! ### The obligations of 00_scope.md -/

/-- Settles O34: the state the request runs at is `accept`, written out. -/
theorem stepRunsDecodedRequest : Obligations.StepRunsDecodedRequest := by
  unfold Obligations.StepRunsDecodedRequest
  intro s rest req i hi hd
  exact step_of_request hi hd

/-- Settles O36. -/
theorem stepWithoutInputWaits : Obligations.StepWithoutInputWaits := by
  unfold Obligations.StepWithoutInputWaits
  intro s hok hi
  exact step_of_no_input hok hi

/-- Settles O37: a word is either no request, and answered ERR_ILLEGAL, or a bus request, and answered by its
meaning. -/
theorem everyBusWordIsAnswered : Obligations.EveryBusWordIsAnswered := by
  unfold Obligations.EveryBusWordIsAnswered
  intro s t rest req hi hstep
  rcases step_next hstep with ⟨hnil, -, -⟩ | ⟨req', rest', i, -, hd, he⟩ | ⟨req', rest', e, -, -, -, ht⟩ |
    ⟨rest', hreset, -, -⟩
  · rw [hi] at hnil
    cases hnil
  · obtain ⟨u, resp, rfl⟩ := exec_responds_of_bus (decodeBus_path hd) he
    simp
  · simp [ht]
  · rw [hi] at hreset
    cases hreset

/-- Settles O41: each stop is the faulting branch of its request's meaning. -/
theorem handBuiltStatesFault : Obligations.HandBuiltStatesFault := by
  unfold Obligations.HandBuiltStatesFault
  intro s hok
  refine ⟨fun he hmax => ?_, fun c hc hne hcur hlen => ?_, fun b hb hd hl => ?_, fun v hp hf => ?_⟩
  · have hstop := exec_tick_of_overflow hok he (by omega)
    rwa [hmax] at hstop
  · have hread : s.readSlot = c % s.params.ringSlots := by
      rw [State.readSlot, slotOf, readCursor_eq hok hc, ← hcur]
    exact exec_pop_of_long_slot hok (mt (distance_eq_zero_iff hc).mp hne) (hread ▸ hlen)
  · exact exec_rxb_of_lineEnd_fault hok ((isTerminator_iff b).mpr hb) (lineEnd_of_long_line hd hl)
  · exact exec_acq_of_encoder_fault hok hp (encodeSample_of_bad_flen (s := (s.emit .adcStart).bandCheck v) hf)

/-- Settles O46: with nothing presented the step waits, a reset and an illegal word always complete, and a request
on the bus completes by R52. -/
theorem stepCompletesUnderInvariant : Obligations.StepCompletesUnderInvariant := by
  unfold Obligations.StepCompletesUnderInvariant
  intro s hinv
  have hok : s.params.Ok := hinv.1
  match hi : s.inputs with
  | [] => exact ⟨_, step_of_no_input hok hi⟩
  | .reset :: rest => exact ⟨_, step_of_reset hok hi⟩
  | .request req :: rest =>
    cases hd : decodeBus req with
    | error e => exact ⟨_, step_of_illegal hok hi hd⟩
    | ok i =>
      rw [step_of_request hi hd]
      exact exec_completes_of_bus ((inv_accept_iff s rest).mpr hinv) (decodeBus_path hd)

end Sys2Proof.Machine
end

-- The statements of 10_state.md: the invariant of R52, the readable count, the event history, the single writers.
section
/-! PROOFS. R52: each named update keeps the invariant, so each request does, and so does a step. -/

namespace Sys2Proof.Machine

/-! ### Registers as natural numbers -/

/-- A rate up to `RATE_MAX` fits its register (R37). -/
theorem rateWord_toNat {p : Params} (h : p.Ok) {n : Nat} (hn : n ≤ p.rateMax) :
    (BitVec.ofNat 16 n).toNat = n := by
  have := Params.ok_rate h
  rw [BitVec.toNat_ofNat]
  omega

/-- The reload value of R140 fits its register (R38). -/
theorem reloadOf_toNat {p : Params} (h : p.Ok) (n : Nat) :
    (reloadOf p n).toNat = p.timerClkHz / n - 1 := by
  have hclk := (Params.ok_timerClk h).2
  have hdiv : p.timerClkHz / n ≤ p.timerClkHz := Nat.div_le_self _ _
  rw [reloadOf, reloadNat, BitVec.toNat_ofNat]
  omega

/-- R52 (iii) of a rate in the accepted range and its reload value. -/
theorem periodOk_of_accepted {s : State} (h : s.params.Ok) {n : Nat} (hlo : s.params.rateMin ≤ n)
    (hhi : n ≤ s.params.rateMax) (hrate : s.rate = BitVec.ofNat 16 n)
    (hreload : s.reload = reloadOf s.params n) : s.periodOk := by
  have hn : s.rate.toNat = n := by rw [hrate, rateWord_toNat h hhi]
  refine ⟨?_, ?_, ?_⟩
  · rwa [hn]
  · rwa [hn]
  · rw [hn, hreload, reloadOf_toNat h]

/-! ### Updates of which the invariant does not speak -/

theorem inv_respond_iff (s : State) (resp : Response) : (s.respond resp).Inv ↔ s.Inv := Iff.rfl

theorem inv_emit_iff (s : State) (e : Event) : (s.emit e).Inv ↔ s.Inv := Iff.rfl

theorem inv_bandCheck_iff (s : State) (v : Sample) : (s.bandCheck v).Inv ↔ s.Inv := Iff.rfl

theorem inv_clearIrq_iff (s : State) : s.clearIrq.Inv ↔ s.Inv := Iff.rfl

/-! ### A seal may take its fresh `flen` first: neither the ring nor the terminator reads it (R100, R123) -/

theorem freshFrame_putFrame (s : State) (len : FrameLen) :
    (s.putFrame len).freshFrame = s.freshFrame.putFrame len := rfl

theorem freshFrame_terminateFrame (s : State) :
    s.terminateFrame.freshFrame = s.freshFrame.terminateFrame := rfl

/-! ### The updates of the ring and of the encoder keep the invariant -/

section Updates

variable {s : State} (hinv : s.Inv)
include hinv

theorem inv_advanceR : s.advanceR.Inv := by
  obtain ⟨hok, hwf, hwithin, ⟨hw, -⟩, henc, htimer, hperiod, hparser, hslots⟩ := hinv
  exact ⟨hok, hwf, hwithin, ⟨hw, addW_lt _ _ _⟩, henc, htimer, hperiod, hparser, hslots⟩

theorem inv_terminateFrame : s.terminateFrame.Inv := by
  obtain ⟨hok, ⟨hwl, hwb, hwf, hwp⟩, ⟨hil, hib, hif, hip⟩, hrest⟩ := hinv
  have hlast : s.params.frameCap - 1 < s.params.frameCap := Nat.sub_one_lt_of_lt (Params.ok_frameCap hok).2.1
  exact ⟨hok, ⟨hwl, hwb, Cells.wf_write hwf _ _, hwp⟩,
    ⟨hil, hib, Cells.within_write hif hlast, hip⟩, hrest⟩

/-- A slot written with length C is a slot of R52 (v), inside the ring (R60). -/
theorem inv_putFrame : (s.putFrame (BitVec.ofNat 7 s.params.frameCap)).Inv := by
  obtain ⟨hok, ⟨hwl, hwb, hwf, hwp⟩, ⟨hil, hib, hif, hip⟩, ⟨-, hr⟩, henc, htimer, hperiod, hparser,
    hslots⟩ := hinv
  have hslot := slotOf_lt hok s.w
  have hbytes : slotOf s.params s.w * s.params.frameCap + s.frameBytes.length ≤
      s.params.ringSlots * s.params.frameCap := by
    calc slotOf s.params s.w * s.params.frameCap + s.frameBytes.length
        = (slotOf s.params s.w + 1) * s.params.frameCap := by
          rw [State.frameBytes, Cells.readN_length, Nat.succ_mul]
      _ ≤ s.params.ringSlots * s.params.frameCap := Nat.mul_le_mul_right _ hslot
  refine ⟨hok, ⟨Cells.wf_write hwl _ _, Cells.wf_writeN hwb _ _, hwf, hwp⟩,
    ⟨Cells.within_write hil hslot, Cells.within_writeN hib hbytes, hif, hip⟩, ⟨addW_lt _ _ _, hr⟩,
    henc, htimer, hperiod, hparser, fun c hc => ?_⟩
  rcases Cells.mem_write hc with rfl | hc
  · exact frameCap_toNat hok
  · exact hslots c hc

/-- The two symbols of a sample fit below the terminator's index; the new `flen` must be one of R52 (i). -/
theorem inv_appendSymbols_of_encoderOk {v : Sample} {n : FrameLen}
    (hn : n.toNat % 2 = 0 ∧ n.toNat ≤ s.params.frameCap - 3) :
    { s.appendSymbols v with flen := n }.Inv := by
  obtain ⟨hok, ⟨hwl, hwb, hwf, hwp⟩, ⟨hil, hib, hif, hip⟩, hcur, ⟨-, hflen⟩, hrest⟩ := hinv
  have hC := Params.ok_frameCap hok
  have hsym : (sym s.params v).length = 2 := rfl
  have hfits : s.flen.toNat + (sym s.params v).length ≤ s.params.frameCap := by omega
  exact ⟨hok, ⟨hwl, hwb, Cells.wf_writeN hwf _ _, hwp⟩, ⟨hil, hib, Cells.within_writeN hif hfits, hip⟩,
    hcur, hn, hrest⟩

theorem inv_of_encodeSample {t : State} {v : Sample} (he : encodeSample v s = .ok t) : t.Inv := by
  have hok : s.params.Ok := hinv.1
  obtain ⟨hle, heven, ⟨-, rfl⟩ | ⟨hshort, rfl⟩⟩ := encodeSample_ok hok he
  · have hfresh : (s.appendSymbols v).freshFrame.Inv :=
      inv_appendSymbols_of_encoderOk hinv ⟨rfl, Nat.zero_le _⟩
    rw [freshFrame_putFrame, freshFrame_terminateFrame]
    exact inv_putFrame (inv_terminateFrame hfresh)
  · have hflen := flen_add_two_toNat hok hle
    have hC := Params.ok_frameCap hok
    exact inv_appendSymbols_of_encoderOk hinv (n := s.flen + 2#7) (by omega)

/-! ### The updates of the timer -/

theorem inv_expire : s.expire.Inv := by
  obtain ⟨hok, hwf, hwithin, hcur, henc, -, hrest⟩ := hinv
  exact ⟨hok, hwf, hwithin, hcur, henc, Nat.zero_le _, hrest⟩

theorem inv_countTick (hne : s.tcount ≠ s.activeReload) : s.countTick.Inv := by
  obtain ⟨hok, hwf, hwithin, hcur, henc, htimer, hrest⟩ := hinv
  have hlt : s.tcount.toNat < s.activeReload.toNat :=
    lt_of_le_of_ne htimer fun heq => hne (BitVec.eq_of_toNat_eq heq)
  exact ⟨hok, hwf, hwithin, hcur, henc, (tcount_add_one_toNat hlt).trans_le hlt, hrest⟩

/-! ### The updates of the parser -/

/-- What ends a line and what overflows it differ in `discard` alone, and R52 (iv) holds of both. -/
theorem inv_emptyLine (d : Bool) : { s with lcur := 0#6, discard := d }.Inv := by
  obtain ⟨hok, hwf, hwithin, hcur, henc, htimer, hperiod, -, hslots⟩ := hinv
  exact ⟨hok, hwf, hwithin, hcur, henc, htimer, hperiod, ⟨Nat.zero_le _, fun _ => rfl⟩, hslots⟩

theorem inv_endLine : s.endLine.Inv := inv_emptyLine hinv false

theorem inv_overflowLine : s.overflowLine.Inv := inv_emptyLine hinv true

theorem inv_pushChar (b : Byte) (hd : s.discard = false) (hl : s.lcur.toNat < s.params.lineCap) :
    (s.pushChar b).Inv := by
  obtain ⟨hok, ⟨hwl, hwb, hwf, hwp⟩, ⟨hil, hib, hif, hip⟩, hcur, henc, htimer, hperiod, -, hslots⟩ := hinv
  have hparser : (s.pushChar b).parserOk :=
    ⟨(lcur_add_one_toNat hok hl).trans_le hl, fun hd' => absurd (hd.symm.trans hd') Bool.false_ne_true⟩
  exact ⟨hok, ⟨hwl, hwb, hwf, Cells.wf_write hwp _ _⟩, ⟨hil, hib, hif, Cells.within_write hip hl⟩, hcur,
    henc, htimer, hperiod, hparser, hslots⟩

theorem inv_applyRate {n : Nat} (hlo : s.params.rateMin ≤ n) (hhi : n ≤ s.params.rateMax) :
    (s.applyRate n).Inv := by
  obtain ⟨hok, hwf, hwithin, hcur, henc, htimer, -, hparser, hslots⟩ := hinv
  exact ⟨hok, hwf, hwithin, hcur, henc, htimer,
    periodOk_of_accepted (s := s.applyRate n) hok hlo hhi rfl rfl, hparser, hslots⟩

theorem inv_applyLine (line : List Byte) : (s.applyLine line).Inv := by
  rcases applyLine_cases s line with heq | ⟨n, -, hlo, hhi, heq⟩
  · rwa [heq]
  · rw [heq]
    exact inv_applyRate hinv hlo hhi

theorem inv_of_lineEnd {t : State} (he : lineEnd s = .ok t) : t.Inv := by
  rcases lineEnd_ok he with ⟨-, rfl⟩ | ⟨-, -, rfl⟩
  · exact inv_endLine hinv
  · exact inv_endLine (inv_applyLine hinv _)

theorem inv_lineChar (b : Byte) : (s.lineChar b).Inv := by
  rcases lineChar_cases s b with ⟨-, heq⟩ | ⟨hd, hl, heq⟩ | ⟨-, -, heq⟩
  · rwa [heq]
  · rw [heq]
    exact inv_pushChar hinv b hd hl
  · rw [heq]
    exact inv_overflowLine hinv

/-! ### Requests and steps -/

/-- RB_WRITE is left out: its length operand, which no word on the bus carries, need not be C (R52 (v)). -/
theorem inv_of_exec_of_bus {i : Instr} {t : State} (hi : i.path = .bus) (he : exec i s = .next t) :
    t.Inv := by
  cases i with
  | nop =>
    obtain ⟨-, rfl⟩ := exec_nop_next he
    exact (inv_respond_iff s _).mpr hinv
  | tick =>
    obtain ⟨-, ⟨-, rfl⟩ | ⟨hne, -, rfl⟩⟩ := exec_tick_next he
    · exact (inv_respond_iff _ _).mpr (inv_expire hinv)
    · exact (inv_respond_iff _ _).mpr (inv_countTick hinv hne)
  | acq v =>
    obtain ⟨-, ⟨-, rfl⟩ | ⟨-, u, hu, rfl⟩⟩ := exec_acq_next he
    · exact (inv_respond_iff s _).mpr hinv
    · have hchecked : ((s.emit .adcStart).bandCheck v).Inv :=
        (inv_bandCheck_iff _ _).mpr ((inv_emit_iff _ _).mpr hinv)
      exact (inv_respond_iff _ _).mpr ((inv_clearIrq_iff u).mpr (inv_of_encodeSample hchecked hu))
  | pop =>
    obtain ⟨-, ⟨-, rfl⟩ | ⟨-, -, rfl⟩⟩ := exec_pop_next he
    · exact (inv_respond_iff s _).mpr hinv
    · exact (inv_respond_iff _ _).mpr (inv_advanceR hinv)
  | rxb b =>
    obtain ⟨-, ⟨-, u, hu, rfl⟩ | ⟨-, rfl⟩⟩ := exec_rxb_next he
    · exact (inv_respond_iff _ _).mpr (inv_of_lineEnd hinv hu)
    · exact (inv_respond_iff _ _).mpr (inv_lineChar hinv b)
  | rxdone =>
    obtain ⟨-, rfl⟩ := exec_rxdone_next he
    exact (inv_respond_iff _ _).mpr ((inv_emit_iff s _).mpr hinv)
  | stat sel =>
    obtain ⟨-, ⟨x, -, rfl⟩ | ⟨-, rfl⟩⟩ := exec_stat_next he
    · exact (inv_respond_iff s _).mpr hinv
    · exact (inv_respond_iff s _).mpr hinv
  | rbWrite len => cases hi
  | enc v => cases hi

end Updates

/-- R220, R52: the reset value of a legal parameter set meets the invariant, whatever is still to be presented. -/
theorem inv_resetOf {p : Params} (h : p.Ok) (rest : List Input) :
    { State.resetOf p with inputs := rest }.Inv := by
  have hperiod : (State.resetOf p).periodOk :=
    periodOk_of_accepted (s := State.resetOf p) h (Params.ok_resetRate h).1 (Params.ok_resetRate h).2 rfl rfl
  have hcursor : 0 < 2 ^ p.cursorW := Nat.two_pow_pos _
  exact ⟨h, ⟨Cells.wf_nil, Cells.wf_nil, Cells.wf_nil, Cells.wf_nil⟩,
    ⟨List.forall_mem_nil _, List.forall_mem_nil _, List.forall_mem_nil _, List.forall_mem_nil _⟩,
    ⟨hcursor, hcursor⟩, ⟨rfl, Nat.zero_le _⟩, Nat.zero_le _, hperiod, ⟨Nat.zero_le _, fun _ => rfl⟩,
    List.forall_mem_nil _⟩

/-- Settles O45: a step waits, runs a request of the bus, answers ERR_ILLEGAL, or resets. -/
theorem stepKeepsInvariant : Obligations.StepKeepsInvariant := by
  unfold Obligations.StepKeepsInvariant
  intro s t hinv hstep
  rcases step_next hstep with ⟨-, -, rfl⟩ | ⟨req, rest, i, -, hd, he⟩ | ⟨req, rest, e, -, -, -, rfl⟩ |
    ⟨rest, -, hok, rfl⟩
  · exact hinv
  · exact inv_of_exec_of_bus ((inv_accept_iff s rest).mpr hinv) (decodeBus_path hd) he
  · exact (inv_respond_iff _ _).mpr ((inv_accept_iff s rest).mpr hinv)
  · exact inv_resetOf hok rest

end Sys2Proof.Machine
end

section
/-! PROOFS. R52 (vi), R102: the distance from the cursor a POP reads at to `w` is the readable count. -/

namespace Sys2Proof.Machine

/-! ### Differences of W-bit cursors -/

/-- Stepping the subtrahend on by one takes one off a difference that is not 0. -/
theorem subW_addW_one {p : Params} {a b : Nat} (ha : a < 2 ^ p.cursorW) (hb : b < 2 ^ p.cursorW)
    (hne : subW p a b ≠ 0) : subW p a (addW p b 1) + 1 = subW p a b := by
  rw [subW_cases ha hb] at hne ⊢
  rw [subW_cases ha (addW_lt p b 1), addW_one_cases hb]
  split_ifs at hne ⊢ <;> omega

/-- What was subtracted is the distance back. -/
theorem subW_subW_self {p : Params} {a n : Nat} (ha : a < 2 ^ p.cursorW) (hn : n < 2 ^ p.cursorW) :
    subW p a (subW p a n) = n := by
  rw [subW_cases ha (subW_lt p a n), subW_cases ha hn]
  split_ifs <;> omega

/-- Fewer slots than cursor values (R6). -/
theorem ringSlots_lt_two_pow {p : Params} (h : p.Ok) : p.ringSlots < 2 ^ p.cursorW := by
  have := Params.ok_two_ringSlots h
  have := Params.ok_ringSlots_pos h
  omega

/-! ### The cursor a POP reads at -/

theorem readCursor_lt {s : State} (hc : s.cursorsOk) : s.readCursor < 2 ^ s.params.cursorW := by
  unfold State.readCursor
  split
  · exact subW_lt _ _ _
  · exact hc.2

/-- R101, R102: after the catch-up `w` is ahead of the read cursor by the readable count. -/
theorem subW_readCursor {s : State} (h : s.params.Ok) (hc : s.cursorsOk) :
    subW s.params s.w s.readCursor = s.count := by
  unfold State.readCursor State.count
  split
  · next hover => rw [subW_subW_self hc.1 (ringSlots_lt_two_pow h), min_eq_right hover.le]
  · next hover => exact (min_eq_left (Nat.le_of_not_lt hover)).symm

/-- A POP that reads a frame leaves `w` ahead of `r` by one less than the readable count. -/
theorem distance_advanceR_add_one {s : State} (h : s.params.Ok) (hc : s.cursorsOk) (hd : s.distance ≠ 0) :
    s.advanceR.distance + 1 = s.count := by
  have hcount : s.count ≠ 0 := by
    have := Params.ok_ringSlots_pos h
    unfold State.count
    omega
  rw [← subW_readCursor h hc] at hcount ⊢
  exact subW_addW_one hc.1 (readCursor_lt hc) hcount

/-- Settles O19. -/
theorem popLowersReadableCount : Obligations.PopLowersReadableCount := by
  unfold Obligations.PopLowersReadableCount
  intro s hok hc hne hlen
  have hd : s.distance ≠ 0 := mt (distance_eq_zero_iff hc).mp hne
  have hstep := distance_advanceR_add_one hok hc hd
  have hle : s.count ≤ s.params.ringSlots := min_le_right _ _
  have hlt : s.advanceR.distance < s.params.ringSlots := by omega
  refine ⟨_, exec_pop_of_frame hok hd (hlen _), ?_, hlt⟩
  calc s.advanceR.count + 1 = s.advanceR.distance + 1 := by
        rw [State.count, State.advanceR_params, min_eq_left hlt.le]
    _ = s.count := hstep

end Sys2Proof.Machine
end

section
/-! PROOFS. R47, R51: what a request of an agent may do, as a relation between two states that composes and that
every named update meets for the agent that owns what it writes. -/

namespace Sys2Proof.Machine

/-- R47: `t` has the events of `s`, then events that bear the number of the step `s` is in. -/
def EventsGrow (s t : State) : Prop := ∃ es, t.events = s.events ++ es ∧ ∀ e ∈ es, e.1 = s.stepNo

namespace EventsGrow

variable {s t u : State}

theorem of_events_eq (h : t.events = s.events) : EventsGrow s t :=
  ⟨[], by rw [h, List.append_nil], List.forall_mem_nil _⟩

theorem of_events_append {e : Event} (h : t.events = s.events ++ [(s.stepNo, e)]) : EventsGrow s t :=
  ⟨[(s.stepNo, e)], h, List.forall_mem_singleton.mpr rfl⟩

theorem trans (h : EventsGrow s t) (hno : t.stepNo = s.stepNo) (k : EventsGrow t u) : EventsGrow s u := by
  obtain ⟨es, hes, tags⟩ := h
  obtain ⟨fs, hfs, tags'⟩ := k
  refine ⟨es ++ fs, by rw [hfs, hes, List.append_assoc], fun e he => ?_⟩
  rcases List.mem_append.mp he with he | he
  · exact tags e he
  · exact (tags' e he).trans hno

end EventsGrow

/-- `t` comes from `s` by writes that R30 to R46 allow the agent `a`. -/
structure WritesAs (a : Agent) (s t : State) : Prop where
  ring : a ≠ .acq → t.slotLen = s.slotLen ∧ t.slotBytes = s.slotBytes ∧ t.w = s.w ∧ t.lost = s.lost
  encoder : a ≠ .acq → t.fbuf = s.fbuf ∧ t.flen = s.flen ∧ t.bandLed = s.bandLed
  readCursor : a ≠ .consumer → t.r = s.r
  timer : a ≠ .timer → t.tcount = s.tcount ∧ t.activeReload = s.activeReload
  period : a ≠ .parser → t.rate = s.rate ∧ t.reload = s.reload ∧ t.cmdAck = s.cmdAck
  line : a ≠ .parser → t.lbuf = s.lbuf ∧ t.lcur = s.lcur ∧ t.discard = s.discard
  irqSet : a ≠ .timer → t.irqPending = true → s.irqPending = true
  irqCleared : a ≠ .acq → s.irqPending = true → t.irqPending = true
  params : t.params = s.params
  inputs : t.inputs = s.inputs
  stepNo : t.stepNo = s.stepNo

namespace WritesAs

variable {a : Agent} {s t u : State}

theorem refl (a : Agent) (s : State) : WritesAs a s s := by constructor <;> simp

theorem trans (h : WritesAs a s t) (k : WritesAs a t u) : WritesAs a s u where
  ring ha := by simp [k.ring ha, h.ring ha]
  encoder ha := by simp [k.encoder ha, h.encoder ha]
  readCursor ha := (k.readCursor ha).trans (h.readCursor ha)
  timer ha := by simp [k.timer ha, h.timer ha]
  period ha := by simp [k.period ha, h.period ha]
  line ha := by simp [k.line ha, h.line ha]
  irqSet ha hu := h.irqSet ha (k.irqSet ha hu)
  irqCleared ha hs := k.irqCleared ha (h.irqCleared ha hs)
  params := k.params.trans h.params
  inputs := k.inputs.trans h.inputs
  stepNo := k.stepNo.trans h.stepNo

end WritesAs

/-- `t` comes from `s` by writes the agent `a` may make, and events of the step `s` is in. -/
structure ActsAs (a : Agent) (s t : State) : Prop where
  writes : WritesAs a s t
  history : EventsGrow s t

namespace ActsAs

variable {a : Agent} {s t u : State}

theorem refl (a : Agent) (s : State) : ActsAs a s s := ⟨.refl a s, .of_events_eq rfl⟩

theorem andThen (h : ActsAs a s t) (hw : WritesAs a t u) (he : EventsGrow t u) : ActsAs a s u :=
  ⟨h.writes.trans hw, h.history.trans h.writes.stepNo he⟩

/-! ### What any agent may write -/

theorem respond (h : ActsAs a s t) (resp : Response) : ActsAs a s (t.respond resp) :=
  h.andThen (by constructor <;> simp) (.of_events_eq rfl)

theorem emit (h : ActsAs a s t) (e : Event) : ActsAs a s (t.emit e) :=
  h.andThen (by constructor <;> simp) (.of_events_append rfl)

/-! ### What ACQ may write -/

theorem bandCheck (h : ActsAs .acq s t) (v : Sample) : ActsAs .acq s (t.bandCheck v) :=
  h.andThen (by constructor <;> simp) (.of_events_eq rfl)

theorem clearIrq (h : ActsAs .acq s t) : ActsAs .acq s t.clearIrq :=
  h.andThen (by constructor <;> simp) (.of_events_eq rfl)

theorem appendSymbols (h : ActsAs .acq s t) (v : Sample) : ActsAs .acq s (t.appendSymbols v) :=
  h.andThen (by constructor <;> simp) (.of_events_eq rfl)

theorem terminateFrame (h : ActsAs .acq s t) : ActsAs .acq s t.terminateFrame :=
  h.andThen (by constructor <;> simp) (.of_events_eq rfl)

theorem putFrame (h : ActsAs .acq s t) (len : FrameLen) : ActsAs .acq s (t.putFrame len) :=
  h.andThen (by constructor <;> simp) (.of_events_append rfl)

theorem freshFrame (h : ActsAs .acq s t) : ActsAs .acq s t.freshFrame :=
  h.andThen (by constructor <;> simp) (.of_events_eq rfl)

theorem encodeSample {v : Sample} (h : ActsAs .acq s t) (ok : t.params.Ok)
    (he : encodeSample v t = .ok u) : ActsAs .acq s u := by
  obtain ⟨-, -, ⟨-, rfl⟩ | ⟨-, rfl⟩⟩ := encodeSample_ok ok he
  · exact ((h.appendSymbols v).terminateFrame.putFrame _).freshFrame
  · exact h.appendSymbols v

/-! ### What CONSUMER and TIMER may write -/

theorem advanceR (h : ActsAs .consumer s t) : ActsAs .consumer s t.advanceR :=
  h.andThen (by constructor <;> simp) (.of_events_eq rfl)

theorem expire (h : ActsAs .timer s t) : ActsAs .timer s t.expire :=
  h.andThen (by constructor <;> simp) (.of_events_eq rfl)

theorem countTick (h : ActsAs .timer s t) : ActsAs .timer s t.countTick :=
  h.andThen (by constructor <;> simp) (.of_events_eq rfl)

/-! ### What PARSER may write -/

theorem applyRate (h : ActsAs .parser s t) (n : Nat) : ActsAs .parser s (t.applyRate n) :=
  h.andThen (by constructor <;> simp) (.of_events_eq rfl)

theorem endLine (h : ActsAs .parser s t) : ActsAs .parser s t.endLine :=
  h.andThen (by constructor <;> simp) (.of_events_eq rfl)

theorem pushChar (h : ActsAs .parser s t) (b : Byte) : ActsAs .parser s (t.pushChar b) :=
  h.andThen (by constructor <;> simp) (.of_events_eq rfl)

theorem overflowLine (h : ActsAs .parser s t) : ActsAs .parser s t.overflowLine :=
  h.andThen (by constructor <;> simp) (.of_events_eq rfl)

theorem applyLine (h : ActsAs .parser s t) (line : List Byte) :
    ActsAs .parser s (t.applyLine line) := by
  rcases applyLine_cases t line with heq | ⟨n, -, -, -, heq⟩
  · rwa [heq]
  · rw [heq]
    exact h.applyRate n

theorem lineEnd (h : ActsAs .parser s t) (he : lineEnd t = .ok u) : ActsAs .parser s u := by
  rcases lineEnd_ok he with ⟨-, rfl⟩ | ⟨-, -, rfl⟩
  · exact h.endLine
  · exact (h.applyLine _).endLine

theorem lineChar (h : ActsAs .parser s t) (b : Byte) : ActsAs .parser s (t.lineChar b) := by
  rcases lineChar_cases t b with ⟨-, heq⟩ | ⟨-, -, heq⟩ | ⟨-, -, heq⟩
  · rwa [heq]
  · rw [heq]
    exact h.pushChar b
  · rw [heq]
    exact h.overflowLine

end ActsAs

/-- R51, R47: a request writes what its issuer (R13) may write, and its events are those of its step. -/
theorem exec_actsAs {i : Instr} {s t : State} (he : exec i s = .next t) : ActsAs (issuerOf i) s t := by
  cases i with
  | nop =>
    obtain ⟨-, rfl⟩ := exec_nop_next he
    exact (ActsAs.refl _ s).respond _
  | tick =>
    obtain ⟨-, ⟨-, rfl⟩ | ⟨-, -, rfl⟩⟩ := exec_tick_next he
    · exact (ActsAs.refl _ s).expire.respond _
    · exact (ActsAs.refl _ s).countTick.respond _
  | acq v =>
    obtain ⟨hok, ⟨-, rfl⟩ | ⟨-, u, hu, rfl⟩⟩ := exec_acq_next he
    · exact (ActsAs.refl _ s).respond _
    · have hchecked : ActsAs .acq s ((s.emit .adcStart).bandCheck v) :=
        ((ActsAs.refl _ s).emit _).bandCheck v
      exact (hchecked.encodeSample hok hu).clearIrq.respond _
  | pop =>
    obtain ⟨-, ⟨-, rfl⟩ | ⟨-, -, rfl⟩⟩ := exec_pop_next he
    · exact (ActsAs.refl _ s).respond _
    · exact (ActsAs.refl _ s).advanceR.respond _
  | rxb b =>
    obtain ⟨-, ⟨-, u, hu, rfl⟩ | ⟨-, rfl⟩⟩ := exec_rxb_next he
    · exact ((ActsAs.refl _ s).lineEnd hu).respond _
    · exact ((ActsAs.refl _ s).lineChar b).respond _
  | rxdone =>
    obtain ⟨-, rfl⟩ := exec_rxdone_next he
    exact ((ActsAs.refl _ s).emit _).respond _
  | stat sel =>
    obtain ⟨-, ⟨x, -, rfl⟩ | ⟨-, rfl⟩⟩ := exec_stat_next he
    · exact (ActsAs.refl _ s).respond _
    · exact (ActsAs.refl _ s).respond _
  | rbWrite len =>
    obtain ⟨-, -, rfl⟩ := exec_rbWrite_next he
    exact (ActsAs.refl _ s).putFrame len
  | enc v =>
    obtain ⟨hok, hu⟩ := exec_enc_next he
    exact (ActsAs.refl _ s).encodeSample hok hu

/-- Settles O49. -/
theorem eventsAppendOnly : Obligations.EventsAppendOnly := by
  unfold Obligations.EventsAppendOnly
  intro i s t he
  exact (exec_actsAs he).history

/-- Settles O50: the clauses of `WritesAs` for the request's issuer, gathered by agent. -/
theorem singleWriterOwnership : Obligations.SingleWriterOwnership := by
  unfold Obligations.SingleWriterOwnership
  intro i s t he
  have hw := (exec_actsAs he).writes
  refine ⟨fun ha => ?_, hw.readCursor, hw.timer, fun ha => ?_, fun hs ht => ?_, fun hs ht => ?_,
    hw.params, hw.inputs, hw.stepNo⟩
  · obtain ⟨hlen, hbytes, hcur, hlost⟩ := hw.ring ha
    exact ⟨hlen, hbytes, hcur, hlost, hw.encoder ha⟩
  · obtain ⟨hrate, hreload, hack⟩ := hw.period ha
    obtain ⟨hbuf, hlcur, hdiscard⟩ := hw.line ha
    exact ⟨hrate, hreload, hbuf, hlcur, hdiscard, hack⟩
  · by_contra ha
    simp [hw.irqSet ha ht] at hs
  · by_contra ha
    simp [hw.irqCleared ha hs] at ht

end Sys2Proof.Machine
end

-- The statement of 20_memory.md: the canonical form of the arrays.
section
/-! PROOFS. R60: each update that writes an array keeps every array in its canonical form. By R51 only ACQ and
PARSER write arrays at all, so no other request needs its meaning looked at. -/

namespace Sys2Proof.Machine

/-- R51: the requests of TIMER, CONSUMER and DEBUG leave the four arrays as they are. -/
theorem arraysWf_of_writesAs {a : Agent} {s t : State} (hs : s.arraysWf) (hw : WritesAs a s t)
    (hacq : a ≠ .acq) (hparser : a ≠ .parser) : t.arraysWf := by
  obtain ⟨hlen, hbytes, -, -⟩ := hw.ring hacq
  obtain ⟨hfbuf, -, -⟩ := hw.encoder hacq
  obtain ⟨hlbuf, -, -⟩ := hw.line hparser
  rwa [State.arraysWf, hlen, hbytes, hfbuf, hlbuf]

section Updates

variable {s : State} (hs : s.arraysWf)
include hs

/-! ### The updates of ACQ -/

theorem arraysWf_appendSymbols (v : Sample) : (s.appendSymbols v).arraysWf := by
  obtain ⟨hlen, hbytes, hfbuf, hlbuf⟩ := hs
  exact ⟨hlen, hbytes, Cells.wf_writeN hfbuf _ _, hlbuf⟩

theorem arraysWf_terminateFrame : s.terminateFrame.arraysWf := by
  obtain ⟨hlen, hbytes, hfbuf, hlbuf⟩ := hs
  exact ⟨hlen, hbytes, Cells.wf_write hfbuf _ _, hlbuf⟩

theorem arraysWf_putFrame (len : FrameLen) : (s.putFrame len).arraysWf := by
  obtain ⟨hlen, hbytes, hfbuf, hlbuf⟩ := hs
  exact ⟨Cells.wf_write hlen _ _, Cells.wf_writeN hbytes _ _, hfbuf, hlbuf⟩

theorem arraysWf_of_encodeSample {t : State} {v : Sample} (hok : s.params.Ok)
    (he : encodeSample v s = .ok t) : t.arraysWf := by
  have happend := arraysWf_appendSymbols hs v
  obtain ⟨-, -, ⟨-, rfl⟩ | ⟨-, rfl⟩⟩ := encodeSample_ok hok he
  · exact arraysWf_putFrame (arraysWf_terminateFrame happend) _
  · exact happend

/-! ### The updates of PARSER: only a character of a line is stored -/

theorem arraysWf_pushChar (b : Byte) : (s.pushChar b).arraysWf := by
  obtain ⟨hlen, hbytes, hfbuf, hlbuf⟩ := hs
  exact ⟨hlen, hbytes, hfbuf, Cells.wf_write hlbuf _ _⟩

theorem arraysWf_lineChar (b : Byte) : (s.lineChar b).arraysWf := by
  rcases lineChar_cases s b with ⟨-, heq⟩ | ⟨-, -, heq⟩ | ⟨-, -, heq⟩
  · rwa [heq]
  · rw [heq]
    exact arraysWf_pushChar hs b
  · rwa [heq]

theorem arraysWf_applyLine (line : List Byte) : (s.applyLine line).arraysWf := by
  rcases applyLine_cases s line with heq | ⟨n, -, -, -, heq⟩
  · rwa [heq]
  · rwa [heq]

theorem arraysWf_of_lineEnd {t : State} (he : lineEnd s = .ok t) : t.arraysWf := by
  rcases lineEnd_ok he with ⟨-, rfl⟩ | ⟨-, -, rfl⟩
  · exact hs
  · exact arraysWf_applyLine hs _

/-! ### Requests -/

/-- Unlike the whole invariant, the canonical form is kept by RB_WRITE and ENC of any operand. -/
theorem arraysWf_of_exec {i : Instr} {t : State} (he : exec i s = .next t) : t.arraysWf := by
  have hw := (exec_actsAs he).writes
  cases i with
  | nop | tick | pop | stat _ => exact arraysWf_of_writesAs hs hw nofun nofun
  | acq v =>
    obtain ⟨hok, ⟨-, rfl⟩ | ⟨-, u, hu, rfl⟩⟩ := exec_acq_next he
    · exact hs
    · have hencoded : u.arraysWf :=
        arraysWf_of_encodeSample (s := (s.emit .adcStart).bandCheck v) hs hok hu
      exact hencoded
  | rxb b =>
    obtain ⟨-, ⟨-, u, hu, rfl⟩ | ⟨-, rfl⟩⟩ := exec_rxb_next he
    · have hended : u.arraysWf := arraysWf_of_lineEnd hs hu
      exact hended
    · exact arraysWf_lineChar hs b
  | rxdone =>
    obtain ⟨-, rfl⟩ := exec_rxdone_next he
    exact hs
  | rbWrite len =>
    obtain ⟨-, -, rfl⟩ := exec_rbWrite_next he
    exact arraysWf_putFrame hs len
  | enc v =>
    obtain ⟨hok, hu⟩ := exec_enc_next he
    exact arraysWf_of_encodeSample hs hok hu

end Updates

/-- The reset arrays list nothing (log 4), and an empty list of cells is canonical. -/
theorem arraysWf_resetOf (p : Params) : (State.resetOf p).arraysWf :=
  ⟨Cells.wf_nil, Cells.wf_nil, Cells.wf_nil, Cells.wf_nil⟩

/-- Settles O48: taking an input and answering ERR_ILLEGAL touch no array, so a step keeps the form as its request
does, or resets. -/
theorem stepKeepsArraysCanonical : Obligations.StepKeepsArraysCanonical := by
  unfold Obligations.StepKeepsArraysCanonical
  intro s t hs hstep
  rcases step_next hstep with ⟨-, -, rfl⟩ | ⟨req, rest, i, -, -, he⟩ | ⟨req, rest, e, -, -, -, rfl⟩ |
    ⟨rest, -, -, rfl⟩
  · exact hs
  · exact arraysWf_of_exec (s := s.accept rest) hs he
  · exact hs
  · exact arraysWf_resetOf s.params

end Sys2Proof.Machine
end

-- The statements of 30_encoding.md: the round trip of encoding and decoding, responses on the wire, and which
-- words lead to the encoder and the ring.
section
/-! PROOFS. R80 to R87: a word is an opcode above reserved zeros above an operand, so the fields that a decoder
reads are the parts the encoder concatenates, and nothing else spells the request. -/

namespace Sys2Proof

/-! ### A word as the concatenation of its fields -/

/-- The parts of a concatenation are its fields. -/
theorem append_eq_iff {m n : Nat} (x : BitVec m) (y : BitVec n) (z : BitVec (m + n)) :
    x ++ y = z ↔ z.extractLsb' n m = x ∧ z.extractLsb' 0 n = y := by
  constructor
  · rintro rfl
    exact ⟨BitVec.extractLsb'_append_eq_left, BitVec.extractLsb'_append_eq_right⟩
  · rintro ⟨rfl, rfl⟩
    simp

/-- R80, R81: an opcode, reserved zeros and an operand make up a word exactly when they are its fields. -/
theorem fields_eq_iff {r n : Nat} (op : BitVec 4) (v : BitVec n) (req : BitVec (4 + r + n)) :
    op ++ 0#r ++ v = req ↔
      req.extractLsb' (r + n) 4 = op ∧ req.extractLsb' n r = 0#r ∧ req.extractLsb' 0 n = v := by
  have upper (lo len : Nat) (h : lo + len ≤ 4 + r) :
      (req.extractLsb' n (4 + r)).extractLsb' lo len = req.extractLsb' (lo + n) len := by
    ext k hk
    simp [show lo + k < 4 + r by omega, show n + (lo + k) = lo + n + k by omega]
  rw [append_eq_iff, eq_comm (a := req.extractLsb' n (4 + r)), append_eq_iff, upper r 4 (by omega),
    upper 0 r (by omega), Nat.zero_add, and_assoc]

/-- The opcode of the word of each request (R84, R85). -/
def Instr.opcode : Instr → BitVec 4
  | .nop => 0x0#4
  | .tick => 0x1#4
  | .acq _ => 0x2#4
  | .pop => 0x3#4
  | .rxb _ => 0x4#4
  | .rxdone => 0x5#4
  | .stat _ => 0x6#4
  | .rbWrite _ => 0x8#4
  | .enc _ => 0x9#4

theorem opField_encode (i : Instr) : opField (encode i) = i.opcode := by
  cases i with
  | nop | tick | pop | rxdone => rfl
  | acq v | enc v => exact ((fields_eq_iff (r := 12) _ v _).mp rfl).1
  | rxb b => exact ((fields_eq_iff (r := 20) _ b _).mp rfl).1
  | stat sel => exact ((fields_eq_iff (r := 24) _ sel _).mp rfl).1
  | rbWrite len => exact ((fields_eq_iff (r := 21) _ len _).mp rfl).1

/-! ### The formats of R81: which words each of them takes, and as what -/

section Formats

variable {op : BitVec 4} {req : Word} {i : Instr}

/-- What the formats with an operand share: the reserved bits are checked, and the operand goes on to `k`. -/
theorem operand_eq_ok {r n : Nat} {req : BitVec (4 + r + n)} {e : Illegal} {k : BitVec n → Except Illegal Instr}
    (hop : req.extractLsb' (r + n) 4 = op) :
    (if req.extractLsb' n r = 0#r then k (req.extractLsb' 0 n) else .error e) = .ok i ↔
      ∃ v, op ++ 0#r ++ v = req ∧ k v = .ok i := by
  simp only [fields_eq_iff, hop, true_and]
  split
  · next hz => simp [hz]
  · next hz => simp [hz]

/-- A guard lets its value through when it holds. -/
theorem guard_eq_ok {c : Prop} [Decidable c] {j : Instr} {e : Illegal} :
    (if c then Except.ok j else .error e) = .ok i ↔ c ∧ j = i := by
  by_cases hc : c <;> simp [hc]

theorem decodeF0_eq_ok {j : Instr} (hop : opField req = op) :
    decodeF0 req j = .ok i ↔ op ++ 0#28 = req ∧ j = i := by
  have hword : op ++ 0#28 = req ↔ opField req = op ∧ req.extractLsb' 0 28 = 0#28 := append_eq_iff op 0#28 req
  rw [decodeF0, guard_eq_ok, hword, and_iff_right hop]

theorem decodeFS_eq_ok {f : Sample → Instr} (hop : opField req = op) :
    decodeFS req f = .ok i ↔ ∃ v, op ++ 0#12 ++ v = req ∧ f v = i := by
  simpa only [decodeFS, Except.ok.injEq] using operand_eq_ok (r := 12) (k := fun v => .ok (f v)) hop

theorem decodeFB_eq_ok {f : Byte → Instr} (hop : opField req = op) :
    decodeFB req f = .ok i ↔ ∃ b, op ++ 0#20 ++ b = req ∧ f b = i := by
  simpa only [decodeFB, Except.ok.injEq] using operand_eq_ok (r := 20) (k := fun b => .ok (f b)) hop

theorem decodeFL_eq_ok {f : FrameLen → Instr} (hop : opField req = op) :
    decodeFL req f = .ok i ↔ ∃ len, op ++ 0#21 ++ len = req ∧ f len = i := by
  simpa only [decodeFL, Except.ok.injEq] using operand_eq_ok (r := 21) (k := fun len => .ok (f len)) hop

theorem decodeFSEL_eq_ok {f : BitVec 4 → Instr} (hop : opField req = op) :
    decodeFSEL req f = .ok i ↔ ∃ sel, op ++ 0#24 ++ sel = req ∧ sel.toNat ≤ maxSelector ∧ f sel = i := by
  simpa only [decodeFSEL, guard_eq_ok] using operand_eq_ok (r := 24) hop
    (k := fun sel => if sel.toNat ≤ maxSelector then .ok (f sel) else .error (.selector sel))

end Formats

/-! ### The round trip -/

/-- Settles O29: the opcode picks the row, and the row's format gives the operand back. -/
theorem decodeOfEncode : Obligations.DecodeOfEncode := by
  unfold Obligations.DecodeOfEncode
  intro i hwf
  have hop := opField_encode i
  cases i with
  | nop | tick | pop | rxdone => rfl
  | acq v =>
    rw [Instr.path, decodeOn, decodeBus, hop]
    exact (decodeFS_eq_ok hop).mpr ⟨v, rfl, rfl⟩
  | rxb b =>
    rw [Instr.path, decodeOn, decodeBus, hop]
    exact (decodeFB_eq_ok hop).mpr ⟨b, rfl, rfl⟩
  | stat sel =>
    rw [Instr.path, decodeOn, decodeBus, hop]
    exact (decodeFSEL_eq_ok hop).mpr ⟨sel, rfl, of_decide_eq_true hwf, rfl⟩
  | rbWrite len =>
    rw [Instr.path, decodeOn, decodeInternal, hop]
    exact (decodeFL_eq_ok hop).mpr ⟨len, rfl, rfl⟩
  | enc v =>
    rw [Instr.path, decodeOn, decodeInternal, hop]
    exact (decodeFS_eq_ok hop).mpr ⟨v, rfl, rfl⟩

section Inversion

variable {req : Word} {i : Instr}

theorem opField_eq_ofNat {k : Nat} (h : (opField req).toNat = k) : opField req = BitVec.ofNat 4 k := by
  rw [← h, BitVec.ofNat_toNat, BitVec.setWidth_eq]

/-- R84: the rows of the bus map, each through its format; the other opcodes decode to nothing. -/
theorem encode_of_decodeBus (h : decodeBus req = .ok i) : i.wellFormed = true ∧ encode i = req := by
  unfold decodeBus at h
  split at h
  case h_1 hop | h_2 hop | h_4 hop | h_6 hop =>
    obtain ⟨hw, rfl⟩ := (decodeF0_eq_ok (opField_eq_ofNat hop)).mp h
    exact ⟨rfl, hw⟩
  case h_3 hop =>
    obtain ⟨v, hw, rfl⟩ := (decodeFS_eq_ok (opField_eq_ofNat hop)).mp h
    exact ⟨rfl, hw⟩
  case h_5 hop =>
    obtain ⟨b, hw, rfl⟩ := (decodeFB_eq_ok (opField_eq_ofNat hop)).mp h
    exact ⟨rfl, hw⟩
  case h_7 hop =>
    obtain ⟨sel, hw, hsel, rfl⟩ := (decodeFSEL_eq_ok (opField_eq_ofNat hop)).mp h
    exact ⟨decide_eq_true hsel, hw⟩
  case h_8 | h_9 | h_10 => cases h

/-- R85: the two rows of the internal map. -/
theorem encode_of_decodeInternal (h : decodeInternal req = .ok i) :
    i.wellFormed = true ∧ i.path = .internal ∧ encode i = req := by
  unfold decodeInternal at h
  split at h
  case h_1 hop =>
    obtain ⟨len, hw, rfl⟩ := (decodeFL_eq_ok (opField_eq_ofNat hop)).mp h
    exact ⟨rfl, rfl, hw⟩
  case h_2 hop =>
    obtain ⟨v, hw, rfl⟩ := (decodeFS_eq_ok (opField_eq_ofNat hop)).mp h
    exact ⟨rfl, rfl, hw⟩
  case h_3 => cases h

end Inversion

/-- Settles O30. -/
theorem encodeOfDecode : Obligations.EncodeOfDecode := by
  unfold Obligations.EncodeOfDecode
  intro p req i h
  cases p with
  | bus =>
    obtain ⟨hwf, hw⟩ := encode_of_decodeBus h
    exact ⟨hwf, decodeBus_path h, hw⟩
  | internal => exact encode_of_decodeInternal h

/-- Settles O31: each word is its request's encoding. -/
theorem sampleWordsDecode : Obligations.SampleWordsDecode :=
  ⟨decodeOfEncode .nop rfl, decodeOfEncode .tick rfl, decodeOfEncode (.acq 0x0FFF#16) rfl,
    decodeOfEncode .pop rfl, decodeOfEncode (.rxb 0x0A#8) rfl, decodeOfEncode .rxdone rfl,
    decodeOfEncode (.stat 10#4) rfl, decodeOfEncode (.rbWrite 63#7) rfl, decodeOfEncode (.enc 0x0123#16) rfl⟩

end Sys2Proof
end

section
/-! PROOFS. R88: the response word and what follows it. -/

namespace Sys2Proof.Machine

section ResponseWord

variable (resp : Response)

theorem header_of_frame (h : resp.code = .frame) :
    resp.header.toNat = resp.code.bits.toNat * 2 ^ 28 + resp.value.toNat % 128 := by
  have hword : resp.header = RespCode.frame.bits ++ 0#21 ++ resp.value.extractLsb' 0 7 := by
    rw [Response.header, h]
  rw [hword, h]
  simp only [toNat_append_add, toNat_field, BitVec.toNat_ofNat]
  omega

theorem header_of_ne_frame (h : resp.code ≠ .frame) :
    resp.header.toNat = resp.code.bits.toNat * 2 ^ 28 := by
  have hword : resp.header = resp.code.bits ++ 0#28 := by
    cases hc : resp.code with
    | frame => exact absurd hc h
    | ok | empty | value | errNotPending | errIllegal => rw [Response.header, hc]
  rw [hword, toNat_append_add, BitVec.toNat_zero, Nat.add_zero]

theorem tail_eq : resp.tail = if resp.code = .frame then .bytes resp.data
    else if resp.code = .value then .word resp.value else .nothing := by
  cases hc : resp.code <;> simp [Response.tail, hc]

end ResponseWord

/-- Settles O33. -/
theorem responseWordLayout : Obligations.ResponseWordLayout := by
  unfold Obligations.ResponseWordLayout
  refine ⟨⟨rfl, rfl, rfl, rfl, rfl, rfl⟩, fun resp => ⟨?_, tail_eq resp⟩⟩
  split
  · next h => exact header_of_frame resp h
  · next h => rw [header_of_ne_frame resp h, Nat.add_zero]

end Sys2Proof.Machine
end

section
/-! PROOFS. R107, R127, R211: a presented word runs a bus request or none, so what only the acquisition agent may
write is left to ACQ. -/

namespace Sys2Proof.Machine

/-- R84: of the bus requests ACQ alone is the acquisition agent's. -/
theorem eq_acq_of_issuerOf {i : Instr} (hi : i.path = .bus) (ha : issuerOf i = .acq) : ∃ v, i = .acq v := by
  cases i with
  | acq v => exact ⟨v, rfl⟩
  | rbWrite _ | enc _ => cases hi
  | nop | tick | pop | rxb _ | rxdone | stat _ => cases ha

/-- R84: POP alone is the consumer's. -/
theorem eq_pop_of_issuerOf {i : Instr} (ha : issuerOf i = .consumer) : i = .pop := by
  cases i with
  | pop => rfl
  | nop | tick | acq _ | rxb _ | rxdone | stat _ | rbWrite _ | enc _ => cases ha

/-- Settles O35: a request writes as its issuer may (R51), and an ILLEGAL word changes nothing (R201). -/
theorem onlyAcqStepsEncodeAndWriteTheRing : Obligations.OnlyAcqStepsEncodeAndWriteTheRing := by
  unfold Obligations.OnlyAcqStepsEncodeAndWriteTheRing
  intro s t rest req hi hstep
  rcases step_next hstep with ⟨hnil, -, -⟩ | ⟨req', rest', i, hreq, hd, he⟩ | ⟨req', rest', e, -, -, -, rfl⟩ |
    ⟨rest', hreset, -, -⟩
  · rw [hi] at hnil
    cases hnil
  · obtain ⟨rfl, rfl⟩ : req = req' ∧ rest = rest' := by simpa [hi] using hreq
    have hw := (exec_actsAs he).writes
    constructor
    · intro hacq
      have ha : issuerOf i ≠ .acq := fun ha => by
        obtain ⟨v, rfl⟩ := eq_acq_of_issuerOf (decodeBus_path hd) ha
        exact hacq v hd
      obtain ⟨hlen, hbytes, hcur, hlost⟩ := hw.ring ha
      exact ⟨hlen, hbytes, hcur, hlost, hw.encoder ha⟩
    · intro hpop
      exact hw.readCursor fun ha => hpop (eq_pop_of_issuerOf ha ▸ hd)
  · simp
  · rw [hi] at hreset
    cases hreset

end Sys2Proof.Machine
end

-- The statements of 40_ring_buffer.md: one RB_WRITE, one POP, POPs in a row, and the overflow of R104.
section
/-! PROOFS. R100, R101, R106: the rules of one slot write and of one slot read, then RB_WRITE and POP by branch. -/

namespace Sys2Proof.Machine

/-! ### Slots of the array (R60, R61) -/

/-- The first bytes of a range are the range of that many bytes. -/
theorem Cells.take_readN {n : Nat} (m : Cells n) (i : Nat) {k count : Nat} (hk : k ≤ count) :
    (Cells.readN m i count).take k = Cells.readN m i k := by
  rw [Cells.readN, ← List.map_take, List.take_range, min_eq_left hk, Cells.readN]

/-- A byte of one slot lies outside every other slot. -/
theorem slot_byte_outside {C j k i : Nat} (hne : j ≠ k) (hi : i < C) :
    j * C + i < k * C ∨ k * C + C ≤ j * C + i := by
  rcases Nat.lt_or_gt_of_ne hne with hlt | hgt
  · left
    calc j * C + i < j * C + C := Nat.add_lt_add_left hi _
      _ = (j + 1) * C := (Nat.succ_mul j C).symm
      _ ≤ k * C := Nat.mul_le_mul_right C hlt
  · right
    calc k * C + C = (k + 1) * C := (Nat.succ_mul k C).symm
      _ ≤ j * C := Nat.mul_le_mul_right C hgt
      _ ≤ j * C + i := Nat.le_add_right _ _

/-- R7: N divides 2^W, so the wrap of a cursor leaves the slot it selects. -/
theorem slotOf_addW {p : Params} (h : p.Ok) (a b : Nat) : slotOf p (addW p a b) = slotOf p (a + b) :=
  Nat.mod_mod_of_dvd _ (Params.ok_ringSlots_dvd h)

theorem slotOf_addW_add {p : Params} (h : p.Ok) (a b j : Nat) :
    slotOf p (addW p a b + j) = slotOf p (a + (b + j)) := by
  rw [← Nat.add_assoc]
  exact Nat.ModEq.add_right j (slotOf_addW h a b)

/-- Cursors less than N apart select different slots. -/
theorem slotOf_add_ne {p : Params} (a : Nat) {j n : Nat} (hj : j < n) (hn : n < j + p.ringSlots) :
    slotOf p (a + j) ≠ slotOf p (a + n) := by
  intro heq
  have hdvd : p.ringSlots ∣ a + n - (a + j) := (Nat.modEq_iff_dvd' (by omega)).mp heq
  have := Nat.le_of_dvd (by omega) hdvd
  omega

/-! ### The frame a POP answers, slot by slot (R88, R101) -/

/-- A response is that of the slot's length and of that many bytes of it. -/
theorem frameResponse_eq {s : State} {k : Nat} (hl : (s.slotLength k).toNat ≤ s.params.frameCap) :
    s.frameResponse k =
      { code := .frame
        value := BitVec.ofNat 32 (s.slotLength k).toNat
        data := Cells.readN s.slotBytes (k * s.params.frameCap) (s.slotLength k).toNat } := by
  rw [State.frameResponse, State.slotData, Cells.take_readN _ _ hl, BitVec.ofNat_toNat]

section PutFrame

variable {s : State} (h : s.arraysWf) (len : FrameLen)
include h

theorem slotLength_putFrame (k : Nat) :
    (s.putFrame len).slotLength k = if slotOf s.params s.w = k then len else s.slotLength k :=
  Cells.read_write h.1 _ len k

theorem read_slotBytes_putFrame_inside {i : Nat} (hi : i < s.params.frameCap) :
    Cells.read (s.putFrame len).slotBytes (slotOf s.params s.w * s.params.frameCap + i) =
      Cells.read s.fbuf i := by
  rw [State.putFrame_slotBytes, Cells.read_writeN h.2.1, if_pos (Nat.le_add_right _ _),
    Nat.add_sub_cancel_left, State.frameBytes, Cells.readN_getElem? _ _ _ _ hi, Nat.zero_add,
    Option.getD_some]

theorem read_slotBytes_putFrame_outside {a : Nat}
    (ha : a < slotOf s.params s.w * s.params.frameCap ∨
      slotOf s.params s.w * s.params.frameCap + s.params.frameCap ≤ a) :
    Cells.read (s.putFrame len).slotBytes a = Cells.read s.slotBytes a :=
  Cells.read_writeN_outside h.2.1 (by rwa [State.frameBytes, Cells.readN_length])

theorem slotData_putFrame (k : Nat) :
    (s.putFrame len).slotData k = if slotOf s.params s.w = k then s.frameBytes else s.slotData k := by
  split
  · next hk =>
    subst hk
    refine Cells.readN_congr fun i hi => ?_
    rw [Nat.zero_add]
    exact read_slotBytes_putFrame_inside h len hi
  · next hk =>
    exact Cells.readN_congr fun i hi =>
      read_slotBytes_putFrame_outside h len (slot_byte_outside (Ne.symm hk) hi)

end PutFrame

/-! ### RB_WRITE, one equation per branch -/

theorem exec_rbWrite_of_le {s : State} {len : FrameLen} (h : s.params.Ok)
    (hl : len.toNat ≤ s.params.frameCap) : exec (.rbWrite len) s = .next (s.putFrame len) :=
  (checked_of_ok h _).trans (by rw [ringWrite_of_le hl, ofExcept_ok])

theorem exec_rbWrite_of_lt {s : State} {len : FrameLen} (h : s.params.Ok)
    (hl : s.params.frameCap < len.toNat) : exec (.rbWrite len) s = .fault (.badFrameLength len) :=
  (checked_of_ok h _).trans (by rw [ringWrite_of_lt hl, ofExcept_error])

/-! ### The obligations on one request -/

/-- Settles O16: the two branches of R100; what is not named by a slot rule is `putFrame` itself. -/
theorem rbWriteWritesOneSlot : Obligations.RbWriteWritesOneSlot := by
  unfold Obligations.RbWriteWritesOneSlot
  rintro s len hok hwf hc _ rfl
  refine ⟨fun hl => ⟨_, exec_rbWrite_of_le hok hl, ?slotLen,
    fun i hi => read_slotBytes_putFrame_inside hwf len hi, fun k hk => ?otherLen,
    fun a ha => read_slotBytes_putFrame_outside hwf len ha, rfl, ?lost, rfl, rfl⟩, exec_rbWrite_of_lt hok⟩
  case slotLen => exact (slotLength_putFrame hwf len _).trans (if_pos rfl)
  case otherLen => exact (slotLength_putFrame hwf len k).trans (if_neg hk.symm)
  case lost => rw [State.putFrame_lost, State.distance, subW_of_lt _ hc.2]

/-- Settles O17: equal cursors are at distance 0. -/
theorem popEmptyChangesNothing : Obligations.PopEmptyChangesNothing := by
  unfold Obligations.PopEmptyChangesNothing
  intro s hok hc he
  exact exec_pop_of_empty hok ((distance_eq_zero_iff hc).mpr he)

/-- Settles O18: R101's cursor is the model's `readCursor`. -/
theorem popReturnsOldestFrame : Obligations.PopReturnsOldestFrame := by
  unfold Obligations.PopReturnsOldestFrame
  rintro s _ _ hok hc rfl hd rfl hl
  rw [← readCursor_eq hok hc] at hl ⊢
  rw [← subW_of_lt s.w hc.2] at hd
  have hframe := frameResponse_eq (k := s.readSlot) hl
  rw [exec_pop_of_frame hok hd hl, hframe]
  rfl

end Sys2Proof.Machine
end

section
/-! PROOFS. R102: POPs in a row answer the slots from the read cursor on, as many as are readable, and then
EMPTY. -/

namespace Sys2Proof.Machine

/-- R102: the responses of the frames still readable, oldest first. -/
def State.readableFrames (s : State) : List Response :=
  (List.range s.count).map fun j => s.frameResponse (slotOf s.params (s.readCursor + j))

theorem popResponses_succ_of_next {s t : State} (k : Nat) (he : exec .pop s = .next t) :
    popResponses (k + 1) s = t.response :: popResponses k t := by
  rw [popResponses, he]

section AfterPop

variable {s : State} (h : s.params.Ok) (hc : s.cursorsOk) (hd : s.distance ≠ 0)
include h hc hd

/-- R52 (vi): after a POP that answers a frame the next POP has nothing to catch up. -/
theorem distance_advanceR_lt : s.advanceR.distance < s.params.ringSlots := by
  have := distance_advanceR_add_one h hc hd
  have : s.count ≤ s.params.ringSlots := min_le_right _ _
  omega

theorem count_advanceR_add_one : s.advanceR.count + 1 = s.count := by
  rw [State.count, State.advanceR_params, min_eq_left (distance_advanceR_lt h hc hd).le,
    distance_advanceR_add_one h hc hd]

theorem readCursor_advanceR : s.advanceR.readCursor = addW s.params s.readCursor 1 :=
  if_neg (distance_advanceR_lt h hc hd).le.not_gt

/-- The slot of a frame is the same before and after the POP of the frame ahead of it. -/
theorem slotOf_readCursor_advanceR (j : Nat) :
    slotOf s.advanceR.params (s.advanceR.readCursor + j) = slotOf s.params (s.readCursor + (j + 1)) := by
  rw [readCursor_advanceR h hc hd, State.advanceR_params, slotOf_addW_add h, Nat.add_comm 1 j]

/-- R101, R102: a POP takes the oldest readable frame off. -/
theorem readableFrames_eq_cons :
    s.readableFrames = s.frameResponse s.readSlot :: s.advanceR.readableFrames := by
  rw [State.readableFrames, ← count_advanceR_add_one h hc hd, List.range_succ_eq_map, List.map_cons,
    List.map_map, State.readableFrames]
  congr 1
  refine List.map_congr_left fun j _ => ?_
  rw [slotOf_readCursor_advanceR h hc hd]
  rfl

end AfterPop

/-- R102, from any state whose readable slots have no length above C. -/
theorem popResponses_count_add_one {s : State} (h : s.params.Ok) (hc : s.cursorsOk)
    (hl : ∀ j < s.count, (s.slotLength (slotOf s.params (s.readCursor + j))).toNat ≤ s.params.frameCap) :
    popResponses (s.count + 1) s = s.readableFrames.map some ++ [some { code := .empty }] := by
  induction hn : s.count generalizing s with
  | zero =>
    have hd : s.distance = 0 := by
      have := Params.ok_ringSlots_pos h
      unfold State.count at hn
      omega
    rw [popResponses_succ_of_next 0 (exec_pop_of_empty h hd), State.readableFrames, hn]
    rfl
  | succ n ih =>
    have hd : s.distance ≠ 0 := by
      unfold State.count at hn
      omega
    have hcount := count_advanceR_add_one h hc hd
    have hpop := exec_pop_of_frame h hd (hl 0 (by omega))
    have hrest : popResponses (n + 1) (s.advanceR.respond (s.frameResponse s.readSlot)) =
        s.advanceR.readableFrames.map some ++ [some { code := .empty }] := by
      refine ih (s := s.advanceR.respond _) h ⟨hc.1, addW_lt _ _ _⟩ (fun j hj => ?_)
        (Nat.succ.inj (hcount.trans hn))
      have hnext := hl (j + 1) (hcount ▸ Nat.succ_lt_succ hj)
      rwa [← slotOf_readCursor_advanceR h hc hd] at hnext
    rw [popResponses_succ_of_next _ hpop, hrest, readableFrames_eq_cons h hc hd]
    rfl

/-- Settles O20: the frames are the `readableFrames`, one for each number below the count. -/
theorem readableCountIsPopsBeforeEmpty : Obligations.ReadableCountIsPopsBeforeEmpty := by
  unfold Obligations.ReadableCountIsPopsBeforeEmpty
  intro s hok hc hl
  refine ⟨s.readableFrames, popResponses_count_add_one hok hc fun j _ => hl _, by simp [State.readableFrames],
    fun f hf => ?_⟩
  obtain ⟨j, -, rfl⟩ := List.mem_map.mp hf
  rfl

end Sys2Proof.Machine
end

section
/-! PROOFS. R104, R105, R225: what the ring holds after frames were produced from an empty ring, as an invariant
that each further RB_WRITE keeps. -/

namespace Sys2Proof.Machine

/-! ### Sums and differences of cursors -/

theorem addW_addW (p : Params) (a m n : Nat) : addW p (addW p a m) n = addW p a (m + n) := by
  rw [addW, addW, Nat.mod_add_mod, Nat.add_assoc, addW]

/-- Going back fewer steps than one has gone on. -/
theorem subW_addW {p : Params} (a : Nat) {n m : Nat} (hm : m < 2 ^ p.cursorW) (hmn : m ≤ n) :
    subW p (addW p a n) m = addW p a (n - m) := by
  rw [subW, addW, addW, Nat.mod_eq_of_lt hm, Nat.mod_add_mod,
    show a + n + (2 ^ p.cursorW - m) = a + (n - m) + 2 ^ p.cursorW by omega, Nat.add_mod_right]

/-- The distance `w` has gone from `r`, up to the aliasing of R225. -/
theorem subW_addW_self {p : Params} {a n : Nat} (ha : a < 2 ^ p.cursorW) (hn : n < 2 ^ p.cursorW) :
    subW p (addW p a n) a = n := by
  rw [addW, Nat.add_comm a n, ← addW, subW_addW n ha le_rfl, Nat.sub_self, addW, Nat.add_zero,
    Nat.mod_eq_of_lt hn]

/-! ### Filling the frame under construction, and sealing it -/

/-- Slot `k` holds a sealed frame (R123): its length is C and these are its C bytes. -/
def State.HoldsFrame (s : State) (k : Nat) (frame : List Byte) : Prop :=
  s.slotLength k = BitVec.ofNat 7 s.params.frameCap ∧ s.slotData k = frame

/-- What `State.produce` hands to RB_WRITE. -/
def State.fillFrame (s : State) (frame : List Byte) : State :=
  { s with fbuf := Cells.writeN s.fbuf 0 frame }

theorem frameResponse_of_holdsFrame {s : State} {k : Nat} {frame : List Byte} (h : s.params.Ok)
    (hf : s.HoldsFrame k frame) : s.frameResponse k = frameOf frame := by
  obtain ⟨hlen, rfl⟩ := hf
  have hdata : (s.slotData k).length = s.params.frameCap := Cells.readN_length _ _ _
  have hcap : (s.slotLength k).toNat = s.params.frameCap := by rw [hlen, frameCap_toNat h]
  rw [frameResponse_eq hcap.le, hcap, frameOf, hdata]
  rfl

theorem produce_eq {s : State} (h : s.params.Ok) (frame : List Byte) :
    s.produce frame = .next ((s.fillFrame frame).putFrame (BitVec.ofNat 7 s.params.frameCap)) :=
  exec_rbWrite_of_le (s := s.fillFrame frame) h (frameCap_toNat h).le

section Produce

variable {s : State} (h : s.arraysWf) {frame : List Byte}
include h

theorem arraysWf_fillFrame : (s.fillFrame frame).arraysWf := by
  obtain ⟨hlen, hbytes, hfbuf, hlbuf⟩ := h
  exact ⟨hlen, hbytes, Cells.wf_writeN hfbuf _ _, hlbuf⟩

theorem frameBytes_fillFrame (hlen : frame.length = s.params.frameCap) :
    (s.fillFrame frame).frameBytes = frame := by
  obtain ⟨-, -, hfbuf, -⟩ := h
  exact readN_writeN_self hfbuf 0 frame hlen

/-- Producing a frame puts it into slot `w mod N`. -/
theorem holdsFrame_produced_self (hlen : frame.length = s.params.frameCap) :
    ((s.fillFrame frame).putFrame (BitVec.ofNat 7 s.params.frameCap)).HoldsFrame (slotOf s.params s.w)
      frame :=
  ⟨(slotLength_putFrame (arraysWf_fillFrame h) _ _).trans (if_pos rfl),
    ((slotData_putFrame (arraysWf_fillFrame h) _ _).trans (if_pos rfl)).trans (frameBytes_fillFrame h hlen)⟩

/-- Producing a frame leaves what the other slots hold. -/
theorem holdsFrame_produced_of_ne {k : Nat} {g : List Byte} (len : FrameLen) (hk : k ≠ slotOf s.params s.w)
    (hg : s.HoldsFrame k g) : ((s.fillFrame frame).putFrame len).HoldsFrame k g :=
  ⟨((slotLength_putFrame (arraysWf_fillFrame h) _ _).trans (if_neg hk.symm)).trans hg.1,
    ((slotData_putFrame (arraysWf_fillFrame h) _ _).trans (if_neg hk.symm)).trans hg.2⟩

end Produce

/-! ### The invariant of a production run -/

/-- `t` comes from the empty ring of `s` by producing `frames` with no POP between: `w` and `lost` have counted
them, and of the frames the newest N stand in the slots of their numbers. -/
structure Produced (s : State) (frames : List (List Byte)) (t : State) : Prop where
  params : t.params = s.params
  arrays : t.arraysWf
  r : t.r = s.r
  w : t.w = addW s.params s.w frames.length
  lost : t.lost.toNat = (s.lost.toNat + (frames.length - s.params.ringSlots)) % 2 ^ 32
  newest : ∀ j f, frames[j]? = some f → frames.length ≤ j + s.params.ringSlots →
    t.HoldsFrame (slotOf s.params (s.w + j)) f

namespace Produced

variable {s t : State} {frames : List (List Byte)}

/-- Nothing produced yet. -/
theorem nil (harr : s.arraysWf) (hc : s.cursorsOk) : Produced s [] s where
  params := rfl
  arrays := harr
  r := rfl
  w := (Nat.mod_eq_of_lt hc.1).symm
  lost := by simp [Nat.mod_eq_of_lt s.lost.isLt]
  newest j f hf := by simp at hf

/-- Short of the aliasing of R225 the distance is the number of frames produced. -/
theorem distance_eq (hp : Produced s frames t) (hc : s.cursorsOk) (he : s.w = s.r)
    (hlt : frames.length < 2 ^ s.params.cursorW) : t.distance = frames.length := by
  rw [State.distance, hp.params, hp.w, hp.r, ← he, subW_addW_self hc.1 hlt]

/-- One more frame: it takes the slot of the frame N before it, which is then lost. -/
theorem concat (hp : Produced s frames t) (hok : s.params.Ok) (hc : s.cursorsOk) (he : s.w = s.r)
    (hlt : frames.length < 2 ^ s.params.cursorW) {f : List Byte} (hf : f.length = s.params.frameCap) :
    Produced s (frames ++ [f]) ((t.fillFrame f).putFrame (BitVec.ofNat 7 t.params.frameCap)) where
  params := hp.params
  arrays := arraysWf_putFrame (arraysWf_fillFrame hp.arrays) _
  r := hp.r
  w := by
    change addW t.params t.w 1 = _
    rw [hp.params, hp.w, addW_addW, List.length_append, List.length_singleton]
  lost := by
    change (if t.params.ringSlots ≤ t.distance then t.lost + 1#32 else t.lost).toNat = _
    rw [hp.distance_eq hc he hlt, hp.params, List.length_append, List.length_singleton]
    have hlost := hp.lost
    split
    · rw [BitVec.toNat_add, hlost, BitVec.toNat_ofNat]
      omega
    · omega
  newest j g hg hj := by
    have hslot : slotOf t.params t.w = slotOf s.params (s.w + frames.length) := by
      rw [hp.params, hp.w, slotOf_addW hok]
    rw [List.length_append, List.length_singleton] at hj
    rcases lt_trichotomy j frames.length with hlt | rfl | hgt
    · rw [List.getElem?_append_left hlt] at hg
      refine holdsFrame_produced_of_ne hp.arrays _ ?_ (hp.newest j g hg (by omega))
      rw [hslot]
      exact slotOf_add_ne s.w hlt (by omega)
    · rw [List.getElem?_concat_length, Option.some.injEq] at hg
      rw [← hslot, ← hg]
      exact holdsFrame_produced_self hp.arrays (by rw [hf, hp.params])
    · simp [hgt] at hg

/-- R104: frames within the bound of R225 are produced one after the other, and all RB_WRITEs complete. -/
theorem produceAll_completes (hok : s.params.Ok) (hc : s.cursorsOk) (he : s.w = s.r) {rest : List (List Byte)}
    (hp : Produced s frames t) (hf : ∀ f ∈ rest, f.length = s.params.frameCap)
    (hlt : frames.length + rest.length < 2 ^ s.params.cursorW) :
    ∃ u, produceAll rest t = .next u ∧ Produced s (frames ++ rest) u := by
  induction rest generalizing frames t with
  | nil => exact ⟨t, rfl, by rwa [List.append_nil]⟩
  | cons f rest ih =>
    obtain ⟨hhead, htail⟩ := List.forall_mem_cons.mp hf
    rw [List.length_cons] at hlt
    have hnext := hp.concat hok hc he (by omega) hhead
    obtain ⟨u, hrun, hu⟩ := ih hnext htail (by rw [List.length_append, List.length_singleton]; omega)
    refine ⟨u, ?_, by simpa using hu⟩
    rw [produceAll, produce_eq (hp.params ▸ hok)]
    exact hrun

section Reading

variable (hp : Produced s frames t) (hok : s.params.Ok) (hc : s.cursorsOk) (he : s.w = s.r)
  (hlt : frames.length < 2 ^ s.params.cursorW)
include hp hc he hlt

theorem count_eq : t.count = min frames.length s.params.ringSlots := by
  rw [State.count, hp.distance_eq hc he hlt, hp.params]

include hok

/-- R104, R105: POPs begin at the oldest frame that was not overwritten. -/
theorem readCursor_eq : t.readCursor = addW s.params s.w (frames.length - s.params.ringSlots) := by
  rw [State.readCursor, hp.distance_eq hc he hlt, hp.params, hp.w, hp.r]
  split
  · next hover => exact subW_addW s.w (ringSlots_lt_two_pow hok) hover.le
  · next hover =>
    rw [Nat.sub_eq_zero_of_le (Nat.le_of_not_lt hover), ← he]
    exact (Nat.mod_eq_of_lt hc.1).symm

/-- The readable frames are the newest N, in production order. -/
theorem holdsFrame_readable {j : Nat} (hj : j < t.count) :
    ∃ f, (frames.drop (frames.length - s.params.ringSlots))[j]? = some f ∧
      t.HoldsFrame (slotOf t.params (t.readCursor + j)) f := by
  rw [hp.count_eq hc he hlt] at hj
  have hin : frames.length - s.params.ringSlots + j < frames.length := by omega
  refine ⟨frames[frames.length - s.params.ringSlots + j], by simp [hin], ?_⟩
  have hslot : slotOf t.params (t.readCursor + j) =
      slotOf s.params (s.w + (frames.length - s.params.ringSlots + j)) := by
    rw [hp.params, hp.readCursor_eq hok hc he hlt, slotOf_addW_add hok]
  rw [hslot]
  exact hp.newest _ _ (List.getElem?_eq_getElem hin) (by omega)

theorem readableFrames_eq :
    t.readableFrames = (frames.drop (frames.length - s.params.ringSlots)).map frameOf := by
  refine List.ext_getElem? fun j => ?_
  by_cases hj : j < t.count
  · obtain ⟨f, hget, hholds⟩ := hp.holdsFrame_readable hok hc he hlt hj
    rw [List.getElem?_map, hget, State.readableFrames, List.getElem?_map, List.getElem?_range hj]
    exact congrArg some (frameResponse_of_holdsFrame (hp.params ▸ hok) hholds)
  · have hcount := hp.count_eq hc he hlt
    rw [List.getElem?_eq_none (by simpa [State.readableFrames] using hj), List.getElem?_eq_none]
    rw [List.length_map, List.length_drop]
    omega

end Reading

end Produced

/-- Settles O21: the run keeps `Produced`, and of such a state the readable frames are the newest N. -/
theorem lossyOverflowKeepsNewestFrames : Obligations.LossyOverflowKeepsNewestFrames := by
  unfold Obligations.LossyOverflowKeepsNewestFrames
  intro s frames hok harr hc he hf hbound
  have hlt : frames.length < 2 ^ s.params.cursorW := by
    have := Params.ok_ringSlots_pos hok
    have := Nat.two_pow_pos s.params.cursorW
    omega
  obtain ⟨t, hrun, hp⟩ :=
    Produced.produceAll_completes hok hc he (Produced.nil harr hc) hf (by simpa using hlt)
  rw [List.nil_append] at hp
  have hok' : t.params.Ok := hp.params ▸ hok
  have hcur : t.cursorsOk := by
    rw [State.cursorsOk, hp.params, hp.w, hp.r]
    exact ⟨addW_lt _ _ _, hc.2⟩
  refine ⟨t, hrun, hp.lost, ?_⟩
  rw [← hp.count_eq hc he hlt, popResponses_count_add_one hok' hcur, hp.readableFrames_eq hok hc he hlt,
    List.map_map]
  · rfl
  · intro j hj
    obtain ⟨f, -, hlen, -⟩ := hp.holdsFrame_readable hok hc he hlt hj
    rw [hlen, frameCap_toNat hok']

end Sys2Proof.Machine
end

-- The statements of 41_frame_encoder.md: the symbols of a sample, one ENC by branch, the seal, and whole frames.
section
/-! PROOFS. R120 to R123: what the two symbols of a sample say of it, what one ENC reads and writes in each of its
branches, and the seal as an RB_WRITE. -/

namespace Sys2Proof.Machine

/-! ### The alphabet and the symbols (R120, R121) -/

section Alphabet

variable {p : Params} (h : p.Ok) {i j : Nat} (hi : i < 64)
include h hi

theorem alphabet_getElem? : p.alphabet[i]? = some (p.alphabet.getD i 0#8) := by
  rw [← Params.ok_alphabet_length h] at hi
  simp [hi]

theorem alphabet_getD_mem : p.alphabet.getD i 0#8 ∈ p.alphabet :=
  List.mem_of_getElem? (alphabet_getElem? h hi)

/-- R6: the symbols are distinct. -/
theorem alphabet_getD_inj (hj : j < 64) : p.alphabet.getD i 0#8 = p.alphabet.getD j 0#8 ↔ i = j := by
  rw [← Option.some_inj, ← alphabet_getElem? h hi, ← alphabet_getElem? h hj]
  exact List.getElem?_inj (by rwa [Params.ok_alphabet_length h]) (Params.ok_alphabet_nodup h)

end Alphabet

theorem mem_alphabet_of_mem_sym {p : Params} (h : p.Ok) {v : Sample} {b : Byte} (hb : b ∈ sym p v) :
    b ∈ p.alphabet := by
  rw [sym_eq, List.mem_pair] at hb
  rcases hb with rfl | rfl
  · exact alphabet_getD_mem h (Nat.mod_lt _ (by decide))
  · exact alphabet_getD_mem h (Nat.mod_lt _ (by decide))

/-- Bits 5:0 and bits 11:6 of a number are its low 12 bits. -/
theorem low_fields_eq_iff (m n : Nat) :
    m % 64 = n % 64 ∧ m / 64 % 64 = n / 64 % 64 ↔ m % 4096 = n % 4096 := by omega

/-- Settles O15: distinct symbols show the two index fields, and TERM is no symbol. -/
theorem symbolsDetermineLowBits : Obligations.SymbolsDetermineLowBits := by
  unfold Obligations.SymbolsDetermineLowBits
  intro p u v hok
  have hlt (m : Nat) : m % 64 < 64 := Nat.mod_lt _ (by decide)
  refine ⟨?_, fun hterm => Params.ok_term hok (mem_alphabet_of_mem_sym hok hterm)⟩
  calc sym p u = sym p v
      ↔ u.toNat % 64 = v.toNat % 64 ∧ u.toNat / 64 % 64 = v.toNat / 64 % 64 := by
        rw [sym_eq, sym_eq, List.cons_eq_cons, List.cons_eq_cons, alphabet_getD_inj hok (hlt _) (hlt _),
          alphabet_getD_inj hok (hlt _) (hlt _), and_iff_left rfl]
    _ ↔ u.toNat % 4096 = v.toNat % 4096 := low_fields_eq_iff _ _

/-! ### ENC, one equation per branch (R122, R123) -/

/-- The seal of a frame whose symbols stand in `fbuf` (R123). -/
def State.afterSeal (s : State) : State :=
  (s.terminateFrame.putFrame (BitVec.ofNat 7 s.params.frameCap)).freshFrame

@[simp] theorem State.afterSeal_params (s : State) : s.afterSeal.params = s.params := rfl

@[simp] theorem State.afterSeal_w (s : State) : s.afterSeal.w = addW s.params s.w 1 := rfl

@[simp] theorem State.afterSeal_events (s : State) :
    s.afterSeal.events = s.events ++ [(s.stepNo, .sealed s.w)] := rfl

section Equations

variable {s : State} (h : s.params.Ok) (v : Sample)
include h

theorem sealFrame_eq_afterSeal : sealFrame s = .ok s.afterSeal := sealFrame_eq h

theorem exec_enc_of_bad_flen (hf : s.params.frameCap - 3 < s.flen.toNat ∨ s.flen.toNat % 2 = 1) :
    exec (.enc v) s = .fault (.encoderState s.flen) :=
  (checked_of_ok h _).trans (by rw [encodeSample_of_bad_flen hf, ofExcept_error])

theorem exec_enc_of_short (heven : s.flen.toNat % 2 = 0) (hl : s.flen.toNat + 5 ≤ s.params.frameCap) :
    exec (.enc v) s = .next (s.appendSymbols v) :=
  (checked_of_ok h _).trans (by
    rw [encodeSample_eq h, if_neg (by omega), if_neg (by omega), ofExcept_ok])

/-- C is odd, so `C − 3` is a legal `flen`. -/
theorem exec_enc_of_full (hl : s.flen.toNat + 3 = s.params.frameCap) :
    exec (.enc v) s = .next (s.appendSymbols v).afterSeal := by
  have hC := Params.ok_frameCap h
  refine (checked_of_ok h _).trans ?_
  rw [encodeSample, if_neg (by omega), if_pos (by omega),
    sealFrame_eq_afterSeal (s := s.appendSymbols v) h, ofExcept_ok]

end Equations

/-- Settles O13: outside the faulting branch an ENC completes. -/
theorem encoderStateFaultExactly : Obligations.EncoderStateFaultExactly := by
  unfold Obligations.EncoderStateFaultExactly
  intro s v hok
  refine ⟨fun hfault => ?_, exec_enc_of_bad_flen hok v⟩
  by_contra hgood
  obtain ⟨t, ht⟩ := encodeSample_completes (s := s) hok ⟨by omega, by omega⟩ v
  have hnext : exec (.enc v) s = .next t := (checked_of_ok hok _).trans (by rw [ht, ofExcept_ok])
  rw [hfault] at hnext
  cases hnext

/-- Settles O12: `terminateFrame` after `appendSymbols` is the `fbuf` of the statement, and RB_WRITE does not read
`flen`. -/
theorem sealIsRbWriteOfTheFrame : Obligations.SealIsRbWriteOfTheFrame := by
  unfold Obligations.SealIsRbWriteOfTheFrame
  intro s v hok hl
  exact ⟨_, exec_rbWrite_of_le hok (frameCap_toNat hok).le, exec_enc_of_full hok v hl⟩

/-! ### What ENC and the seal write, read byte by byte -/

section Reads

variable {s : State} (harr : s.arraysWf)
include harr

theorem read_fbuf_appendSymbols (v : Sample) (a : Nat) :
    Cells.read (s.appendSymbols v).fbuf a =
      if s.flen.toNat + 1 = a then s.params.alphabet.getD (v.toNat / 64 % 64) 0#8
      else if s.flen.toNat = a then s.params.alphabet.getD (v.toNat % 64) 0#8
      else Cells.read s.fbuf a := by
  obtain ⟨-, -, hfbuf, -⟩ := harr
  rw [State.appendSymbols_fbuf, sym_eq, Cells.writeN_cons, Cells.writeN_cons, Cells.writeN_nil,
    Cells.read_write (Cells.wf_write hfbuf _ _), Cells.read_write hfbuf]

theorem read_fbuf_terminateFrame (a : Nat) :
    Cells.read s.terminateFrame.fbuf a =
      if s.params.frameCap - 1 = a then s.params.term else Cells.read s.fbuf a :=
  Cells.read_write harr.2.2.1 _ _ a

theorem slotLength_afterSeal (k : Nat) :
    s.afterSeal.slotLength k =
      if slotOf s.params s.w = k then BitVec.ofNat 7 s.params.frameCap else s.slotLength k :=
  slotLength_putFrame (arraysWf_terminateFrame harr) _ k

theorem read_slotBytes_afterSeal_inside {i : Nat} (hi : i < s.params.frameCap) :
    Cells.read s.afterSeal.slotBytes (slotOf s.params s.w * s.params.frameCap + i) =
      Cells.read s.terminateFrame.fbuf i :=
  read_slotBytes_putFrame_inside (arraysWf_terminateFrame harr) (BitVec.ofNat 7 s.params.frameCap) hi

theorem read_slotBytes_afterSeal_outside {a : Nat}
    (ha : a < slotOf s.params s.w * s.params.frameCap ∨
      slotOf s.params s.w * s.params.frameCap + s.params.frameCap ≤ a) :
    Cells.read s.afterSeal.slotBytes a = Cells.read s.slotBytes a :=
  read_slotBytes_putFrame_outside (arraysWf_terminateFrame harr) (BitVec.ofNat 7 s.params.frameCap) ha

/-- The frame an ENC has completed: what stood below `flen`, the two symbols, TERM, and `fbuf` beyond C. -/
theorem read_fbuf_completed (v : Sample) (hl : s.flen.toNat + 3 = s.params.frameCap) (a : Nat) :
    Cells.read (s.appendSymbols v).terminateFrame.fbuf a =
      if s.flen.toNat + 2 = a then s.params.term
      else if s.flen.toNat + 1 = a then s.params.alphabet.getD (v.toNat / 64 % 64) 0#8
      else if s.flen.toNat = a then s.params.alphabet.getD (v.toNat % 64) 0#8
      else Cells.read s.fbuf a := by
  rw [read_fbuf_terminateFrame (arraysWf_appendSymbols harr v), read_fbuf_appendSymbols harr,
    State.appendSymbols_params, ← hl, show s.flen.toNat + 3 - 1 = s.flen.toNat + 2 from rfl]

end Reads

theorem lost_afterSeal {s : State} (hc : s.cursorsOk) :
    s.afterSeal.lost = if s.params.ringSlots ≤
      (s.w + 2 ^ s.params.cursorW - s.r) % 2 ^ s.params.cursorW then s.lost + 1#32 else s.lost := by
  rw [← subW_of_lt s.w hc.2]
  rfl

/-! ### The obligations on one ENC that completes -/

/-- Settles O10: the append of R122, read at each index. -/
theorem encAppendsTwoSymbols : Obligations.EncAppendsTwoSymbols := by
  unfold Obligations.EncAppendsTwoSymbols
  intro s v hok harr heven hl
  have hread := read_fbuf_appendSymbols harr v
  refine ⟨_, exec_enc_of_short hok v heven hl, flen_add_two_toNat hok (by omega), ?low, ?high,
    fun a ha ha1 => ?others, rfl⟩
  case low =>
    rw [hread, if_neg (by omega), if_pos rfl]
    exact alphabet_getElem? hok (by omega)
  case high =>
    rw [hread, if_pos rfl]
    exact alphabet_getElem? hok (by omega)
  case others => rw [hread, if_neg ha1.symm, if_neg ha.symm]

/-- Settles O11: the slot's bytes are those of the completed `fbuf`, which is then read at each index. -/
theorem encSealsFullFrame : Obligations.EncSealsFullFrame := by
  unfold Obligations.EncSealsFullFrame
  rintro s v hok harr hc hl _ rfl
  have happend := arraysWf_appendSymbols harr v
  have hread := read_fbuf_completed harr v hl
  have hslot {i : Nat} (hi : i < s.params.frameCap) :
      Cells.read (s.appendSymbols v).afterSeal.slotBytes (s.w % s.params.ringSlots * s.params.frameCap + i) =
        Cells.read (s.appendSymbols v).terminateFrame.fbuf i :=
    read_slotBytes_afterSeal_inside happend hi
  have hlen (k : Nat) := slotLength_afterSeal happend k
  refine ⟨_, exec_enc_of_full hok v hl, rfl, ?length, fun i hi => ?before, ?low, ?high, ?term,
    fun i hi => (hslot hi).symm, fun k hk => (hlen k).trans (if_neg hk.symm),
    fun a ha => read_slotBytes_afterSeal_outside happend ha, fun a ha => (hread a).trans ?beyond, rfl,
    lost_afterSeal (s := s.appendSymbols v) hc, rfl, rfl⟩
  case length => exact (congrArg BitVec.toNat ((hlen _).trans (if_pos rfl))).trans (frameCap_toNat hok)
  case before => rw [hslot (by omega), hread, if_neg (by omega), if_neg (by omega), if_neg (by omega)]
  case low =>
    rw [hslot (by omega), hread, if_neg (by omega), if_neg (by omega), if_pos rfl]
    exact alphabet_getElem? hok (by omega)
  case high =>
    rw [Nat.add_assoc, hslot (by omega), hread, if_neg (by omega), if_pos rfl]
    exact alphabet_getElem? hok (by omega)
  case term => rw [Nat.add_sub_assoc (by omega), hslot (by omega), hread, if_pos (by omega)]
  case beyond => rw [if_neg (by omega), if_neg (by omega), if_neg (by omega)]

end Sys2Proof.Machine
end

section
/-! PROOFS. R124, R125: a frame is built by appending samples, its bytes the symbols in order, until the last of
them seals it. -/

namespace Sys2Proof.Machine

/-- What stands before a write that follows a range, and the write, are one range. -/
theorem Cells.readN_writeN_append {n : Nat} {m : Cells n} (hm : Cells.wf m) (i k : Nat)
    (bs : List (BitVec n)) :
    Cells.readN (Cells.writeN m (i + k) bs) i (k + bs.length) = Cells.readN m i k ++ bs := by
  have hsplit (m' : Cells n) :
      Cells.readN m' i (k + bs.length) = Cells.readN m' i k ++ Cells.readN m' (i + k) bs.length := by
    simp [Cells.readN, List.range_add, Nat.add_assoc]
  rw [hsplit, Cells.readN_writeN hm]
  exact congrArg (· ++ bs) (Cells.readN_congr fun j hj => Cells.read_writeN_outside hm (.inl (by omega)))

/-! ### The bytes built so far -/

/-- The bytes of the frame under construction that ENC has built, `fbuf[0..flen−1]` (R35, R36). -/
def State.builtBytes (s : State) : List Byte := Cells.readN s.fbuf 0 s.flen.toNat

section Built

variable {s : State} (harr : s.arraysWf)
include harr

theorem builtBytes_appendSymbols (h : s.params.Ok) (hl : s.flen.toNat ≤ s.params.frameCap - 3) (v : Sample) :
    (s.appendSymbols v).builtBytes = s.builtBytes ++ sym s.params v := by
  have happend := Cells.readN_writeN_append harr.2.2.1 0 s.flen.toNat (sym s.params v)
  rw [Nat.zero_add] at happend
  rw [State.builtBytes, State.appendSymbols_flen, flen_add_two_toNat h hl]
  exact happend

/-- R124: with `C − 1` bytes built, the terminator is the last of the frame. -/
theorem frameBytes_terminateFrame (hl : s.flen.toNat + 1 = s.params.frameCap) :
    s.terminateFrame.frameBytes = s.builtBytes ++ [s.params.term] := by
  have hterm := Cells.readN_writeN_append harr.2.2.1 0 s.flen.toNat [s.params.term]
  rw [Nat.zero_add, List.length_singleton, hl] at hterm
  rw [State.frameBytes, State.terminateFrame_fbuf, State.terminateFrame_params, ← hl, Nat.add_sub_cancel, hl]
  exact hterm

/-- R123: the slot a seal writes holds the bytes built and the terminator. -/
theorem holdsFrame_afterSeal (hl : s.flen.toNat + 1 = s.params.frameCap) :
    s.afterSeal.HoldsFrame (slotOf s.params s.w) (s.builtBytes ++ [s.params.term]) := by
  refine ⟨(slotLength_afterSeal harr _).trans (if_pos rfl), ?_⟩
  rw [← frameBytes_terminateFrame harr hl]
  exact (slotData_putFrame (arraysWf_terminateFrame harr) (BitVec.ofNat 7 s.params.frameCap) _).trans (if_pos rfl)

end Built

/-! ### Samples in a row -/

/-- The appends of several samples, with no seal among them. -/
def State.appendAll (s : State) (vs : List Sample) : State := vs.foldl State.appendSymbols s

theorem appendAll_cons (s : State) (v : Sample) (vs : List Sample) :
    s.appendAll (v :: vs) = (s.appendSymbols v).appendAll vs := rfl

theorem appendAll_concat (s : State) (vs : List Sample) (v : Sample) :
    s.appendAll (vs ++ [v]) = (s.appendAll vs).appendSymbols v := by simp [State.appendAll]

theorem arraysWf_appendAll {s : State} (harr : s.arraysWf) (vs : List Sample) : (s.appendAll vs).arraysWf := by
  induction vs generalizing s with
  | nil => exact harr
  | cons v vs ih => exact ih (arraysWf_appendSymbols harr v)

/-- Appends write `fbuf` and `flen` alone (R126). -/
theorem appendAll_frame (s : State) (vs : List Sample) :
    s.appendAll vs = { s with fbuf := (s.appendAll vs).fbuf, flen := (s.appendAll vs).flen } := by
  induction vs generalizing s with
  | nil => rfl
  | cons v vs ih => exact ih (s.appendSymbols v)

@[simp] theorem appendAll_params (s : State) (vs : List Sample) : (s.appendAll vs).params = s.params := by
  rw [appendAll_frame]

@[simp] theorem appendAll_w (s : State) (vs : List Sample) : (s.appendAll vs).w = s.w := by rw [appendAll_frame]

@[simp] theorem appendAll_events (s : State) (vs : List Sample) : (s.appendAll vs).events = s.events := by
  rw [appendAll_frame]

@[simp] theorem appendAll_stepNo (s : State) (vs : List Sample) : (s.appendAll vs).stepNo = s.stepNo := by
  rw [appendAll_frame]

@[simp] theorem appendAll_slotLen (s : State) (vs : List Sample) : (s.appendAll vs).slotLen = s.slotLen := by
  rw [appendAll_frame]

@[simp] theorem appendAll_slotBytes (s : State) (vs : List Sample) :
    (s.appendAll vs).slotBytes = s.slotBytes := by
  rw [appendAll_frame]

section Samples

variable {s : State} (h : s.params.Ok)
include h

theorem flen_appendAll (vs : List Sample) (hl : s.flen.toNat + 2 * vs.length + 1 ≤ s.params.frameCap) :
    (s.appendAll vs).flen.toNat = s.flen.toNat + 2 * vs.length := by
  induction vs generalizing s with
  | nil => rfl
  | cons v vs ih =>
    rw [List.length_cons] at hl ⊢
    have hflen : (s.appendSymbols v).flen.toNat = s.flen.toNat + 2 := flen_add_two_toNat h (by omega)
    rw [appendAll_cons, ih (s := s.appendSymbols v) h (by rw [hflen, State.appendSymbols_params]; omega), hflen]
    omega

theorem builtBytes_appendAll (harr : s.arraysWf) (vs : List Sample)
    (hl : s.flen.toNat + 2 * vs.length + 1 ≤ s.params.frameCap) :
    (s.appendAll vs).builtBytes = s.builtBytes ++ vs.flatMap (sym s.params) := by
  induction vs generalizing s with
  | nil => exact (List.append_nil _).symm
  | cons v vs ih =>
    rw [List.length_cons] at hl
    have hflen : (s.appendSymbols v).flen.toNat = s.flen.toNat + 2 := flen_add_two_toNat h (by omega)
    rw [appendAll_cons, ih (s := s.appendSymbols v) h (arraysWf_appendSymbols harr v)
      (by rw [hflen, State.appendSymbols_params]; omega), builtBytes_appendSymbols harr h (by omega),
      State.appendSymbols_params, List.append_assoc, List.flatMap_cons]

/-- R125: samples that leave room for another complete, and none of them seals. -/
theorem runAll_enc_of_short (heven : s.flen.toNat % 2 = 0) (vs : List Sample)
    (hl : s.flen.toNat + 2 * vs.length + 3 ≤ s.params.frameCap) :
    runAll (vs.map .enc) s = .next (s.appendAll vs) := by
  induction vs generalizing s with
  | nil => rfl
  | cons v vs ih =>
    rw [List.length_cons] at hl
    have hflen : (s.appendSymbols v).flen.toNat = s.flen.toNat + 2 := flen_add_two_toNat h (by omega)
    rw [List.map_cons, runAll_cons_of_next (exec_enc_of_short h v heven (by omega)), appendAll_cons]
    exact ih (s := s.appendSymbols v) h (by omega) (by rw [hflen, State.appendSymbols_params]; omega)

/-- R125: of the samples that fill a frame the last one seals it. -/
theorem runAll_enc_of_full {vs : List Sample} (hne : vs ≠ [])
    (hl : s.flen.toNat + 2 * vs.length + 1 = s.params.frameCap) :
    runAll (vs.map .enc) s = .next (s.appendAll vs).afterSeal := by
  obtain ⟨init, v, rfl⟩ := vs.eq_nil_or_concat'.resolve_left hne
  rw [List.length_append, List.length_singleton] at hl
  have hC := Params.ok_frameCap h
  have hfull : (s.appendAll init).flen.toNat + 3 = (s.appendAll init).params.frameCap := by
    rw [flen_appendAll h init (by omega), appendAll_params]
    omega
  have hlast := exec_enc_of_full (s := s.appendAll init) (appendAll_params s init ▸ h) v hfull
  rw [List.map_append, runAll_append_of_next (runAll_enc_of_short h (by omega) init (by omega)), List.map_singleton,
    runAll_cons_of_next hlast, runAll_nil, appendAll_concat]

end Samples

/-- Settles O14: both runs are `appendAll`, whose built bytes are the symbols; the seal adds TERM and copies them. -/
theorem sealedFrameFormat : Obligations.SealedFrameFormat := by
  unfold Obligations.SealedFrameFormat
  intro s vs hok harr hfresh
  have hC := Params.ok_frameCap hok
  have hzero : s.flen.toNat = 0 := by rw [hfresh]; rfl
  have hbuilt : s.builtBytes = [] := by rw [State.builtBytes, hzero]; rfl
  rw [Params.samplesPerFrame]
  refine ⟨fun hshort => ⟨_, runAll_enc_of_short hok (by omega) vs (by omega), ?flen, appendAll_w s vs,
      appendAll_events s vs, appendAll_slotLen s vs, appendAll_slotBytes s vs⟩, fun hfull => ?sealed⟩
  case flen => rw [flen_appendAll hok vs (by omega), hzero, Nat.zero_add]
  case sealed =>
    have hflen : (s.appendAll vs).flen.toNat + 1 = (s.appendAll vs).params.frameCap := by
      rw [flen_appendAll hok vs (by omega), appendAll_params]
      omega
    obtain ⟨hlen, hdata⟩ := holdsFrame_afterSeal (arraysWf_appendAll harr vs) hflen
    rw [State.afterSeal_params, appendAll_params, appendAll_w] at hlen
    rw [appendAll_params, appendAll_w, builtBytes_appendAll hok harr vs (by omega), hbuilt, List.nil_append,
      funext (sym_eq s.params)] at hdata
    refine ⟨_, runAll_enc_of_full hok (List.ne_nil_of_length_pos (by omega)) (by omega), rfl, ?w, ?events,
      ?length, hdata⟩
    case w => simp [addW]
    case events => simp
    case length => exact (congrArg BitVec.toNat hlen).trans (frameCap_toNat hok)

end Sys2Proof.Machine
end

-- The statements of 42_timer_acquisition.md: the period of the timer, the expiry flag, and the service of ACQ.
section
/-! PROOFS. R140 to R142: the word of TICK, the reload value of a rate, and a stretch of requests inside one period
as a relation between two states that composes. -/

namespace Sys2Proof

/-- R81: encoding and decoding are inverse, so a well-formed bus request has one word. -/
theorem decodeBus_eq_ok_iff {req : Word} {i : Instr} (hwf : i.wellFormed = true) (hi : i.path = .bus) :
    decodeBus req = .ok i ↔ req = encode i := by
  constructor
  · intro hd
    exact (encode_of_decodeBus hd).2.symm
  · rintro rfl
    have hd := decodeOfEncode i hwf
    rwa [hi] at hd

end Sys2Proof

namespace Sys2Proof.Machine

/-- Settles O7: a rate up to `RATE_MAX`, hence up to the timer clock (R6), divides it at least once, so R140's
subtraction loses nothing. -/
theorem reloadValueFits : Obligations.ReloadValueFits := by
  unfold Obligations.ReloadValueFits
  intro p n hok hlo hhi
  have hpos : 0 < n := (Params.ok_rate hok).1.trans hlo
  have hdiv : 0 < p.timerClkHz / n := Nat.div_pos (hhi.trans (Params.ok_timerClk hok).1) hpos
  rw [reloadOf_toNat hok]
  omega

theorem tcount_countTick_toNat {s : State} (hb : s.tcount.toNat + 1 < 2 ^ 32) :
    s.countTick.tcount.toNat = s.tcount.toNat + 1 :=
  BitVec.toNat_add_of_lt hb

/-- Settles O4: the two branches of R141 that complete. -/
theorem tickAdvancesTimer : Obligations.TickAdvancesTimer := by
  unfold Obligations.TickAdvancesTimer
  refine ⟨fun req => decodeBus_eq_ok_iff rfl rfl, fun s hok => ⟨exec_tick_of_expiry hok, fun hne hb => ?_⟩⟩
  exact ⟨_, exec_tick_of_fits hok hne hb, tcount_countTick_toNat hb, rfl⟩

/-- R84: TICK alone is the timer's. -/
theorem eq_tick_of_issuerOf {i : Instr} (ha : issuerOf i = .timer) : i = .tick := by
  cases i with
  | tick => rfl
  | nop | acq _ | pop | rxb _ | rxdone | stat _ | rbWrite _ | enc _ => cases ha

/-- `t` comes from `s` with `n` TICKs and no expiry between (R142). -/
structure CountsTicks (n : Nat) (s t : State) : Prop where
  tcount : t.tcount.toNat = s.tcount.toNat + n
  activeReload : t.activeReload = s.activeReload
  irqPending : s.irqPending = false → t.irqPending = false
  params : t.params = s.params

namespace CountsTicks

variable {n m : Nat} {s t u : State}

theorem refl (s : State) : CountsTicks 0 s s := ⟨rfl, rfl, id, rfl⟩

theorem trans (h : CountsTicks n s t) (k : CountsTicks m t u) : CountsTicks (n + m) s u where
  tcount := by rw [k.tcount, h.tcount, Nat.add_assoc]
  activeReload := k.activeReload.trans h.activeReload
  irqPending hs := k.irqPending (h.irqPending hs)
  params := k.params.trans h.params

/-- R51: the requests of the other agents leave the timer alone and do not set the flag. -/
theorem of_writesAs {a : Agent} (hw : WritesAs a s t) (ha : a ≠ .timer) : CountsTicks 0 s t := by
  obtain ⟨hcount, hactive⟩ := hw.timer ha
  exact ⟨congrArg BitVec.toNat hcount, hactive, fun hs => by simpa [hs] using hw.irqSet ha, hw.params⟩

/-- R141: short of `active_reload` a TICK counts. -/
theorem of_exec_tick (he : exec .tick s = .next t) (hlt : s.tcount.toNat < s.activeReload.toNat) :
    CountsTicks 1 s t := by
  obtain ⟨-, ⟨hexp, -⟩ | ⟨-, hb, rfl⟩⟩ := exec_tick_next he
  · exact absurd (congrArg BitVec.toNat hexp) hlt.ne
  · exact ⟨tcount_countTick_toNat hb, rfl, id, rfl⟩

/-- R142: a run whose TICKs fit into the period counts them all. -/
theorem of_runAll {l : List Instr} (hrun : runAll l s = .next t)
    (hfits : s.tcount.toNat + l.count .tick ≤ s.activeReload.toNat) : CountsTicks (l.count .tick) s t := by
  induction l generalizing s with
  | nil =>
    cases hrun
    exact refl _
  | cons i l ih =>
    obtain ⟨u, hu, hrest⟩ := runAll_cons_next hrun
    by_cases hi : i = .tick
    · subst hi
      rw [List.count_cons_self] at hfits ⊢
      have hhead := of_exec_tick hu (by omega)
      rw [Nat.add_comm]
      exact hhead.trans (ih hrest (by rw [hhead.tcount, hhead.activeReload]; omega))
    · rw [List.count_cons_of_ne hi] at hfits ⊢
      have hhead := of_writesAs (exec_actsAs hu).writes (mt eq_tick_of_issuerOf hi)
      rw [← Nat.zero_add (l.count .tick)]
      exact hhead.trans (ih hrest (by rwa [hhead.tcount, hhead.activeReload]))

end CountsTicks

/-- Settles O5: the run counts its TICKs from 0, and a count that has reached `active_reload` expires. -/
theorem expiryAfterReloadPlusOneTicks : Obligations.ExpiryAfterReloadPlusOneTicks := by
  unfold Obligations.ExpiryAfterReloadPlusOneTicks
  intro s t l hok hzero hrun hle
  have hstart : s.tcount.toNat = 0 := congrArg BitVec.toNat hzero
  have hcounts : CountsTicks (l.count .tick) s t := .of_runAll hrun (by omega)
  have hcount : t.tcount.toNat = l.count .tick := by rw [hcounts.tcount, hstart, Nat.zero_add]
  refine ⟨hcount, hcounts.activeReload, hcounts.irqPending, fun hfull => ?_⟩
  have hexp : t.tcount = t.activeReload := BitVec.eq_of_toNat_eq (by rw [hcount, hfull, hcounts.activeReload])
  exact ⟨_, exec_tick_of_expiry (hcounts.params ▸ hok) hexp, rfl, rfl, rfl⟩

end Sys2Proof.Machine
end

section
/-! PROOFS. R143 to R145: of the requests of the acquisition agent only ACQ writes the flag, and ACQ is ENC between
its own updates. -/

namespace Sys2Proof.Machine

/-- R122, R123: neither the append nor the seal writes the flag. -/
theorem irqPending_of_encodeSample {s t : State} {v : Sample} (h : s.params.Ok)
    (he : encodeSample v s = .ok t) : t.irqPending = s.irqPending := by
  obtain ⟨-, -, ⟨-, rfl⟩ | ⟨-, rfl⟩⟩ := encodeSample_ok h he
  · rfl
  · rfl

/-- R143: a request that clears the flag is the acquisition agent's (R51), and of those it is ACQ. -/
theorem eq_acq_of_clears_irq {i : Instr} {s t : State} (he : exec i s = .next t) (hs : s.irqPending = true)
    (ht : t.irqPending = false) : ∃ v, i = .acq v := by
  have hcleared : t.irqPending ≠ s.irqPending := by simp [hs, ht]
  have ha : issuerOf i = .acq := by
    by_contra ha
    exact hcleared (((exec_actsAs he).writes.irqCleared ha hs).trans hs.symm)
  cases i with
  | acq v => exact ⟨v, rfl⟩
  | rbWrite len =>
    obtain ⟨-, -, rfl⟩ := exec_rbWrite_next he
    exact absurd (State.putFrame_irqPending s len) hcleared
  | enc v =>
    obtain ⟨hok, hu⟩ := exec_enc_next he
    exact absurd (irqPending_of_encodeSample hok hu) hcleared
  | nop | tick | pop | rxb _ | rxdone | stat _ => cases ha

/-- Settles O6: who sets and who clears the flag is R51; the state of an expiry has the flag overwritten. -/
theorem irqPendingProtocol : Obligations.IrqPendingProtocol := by
  unfold Obligations.IrqPendingProtocol
  refine ⟨fun i s t he => ⟨fun hs ht => ?_, eq_acq_of_clears_irq he⟩, fun s hexp => ?_⟩
  · by_contra hi
    have := (exec_actsAs he).writes.irqSet (mt eq_tick_of_issuerOf hi) ht
    simp [hs] at this
  · by_cases hok : s.params.Ok
    · exact (exec_tick_of_expiry (s := { s with irqPending := true }) hok hexp).trans
        (exec_tick_of_expiry (s := { s with irqPending := false }) hok hexp).symm
    · exact (checked_of_not_ok (s := { s with irqPending := true }) hok _).trans
        (checked_of_not_ok (s := { s with irqPending := false }) hok _).symm

/-! ### ACQ as ENC between its own updates -/

theorem exec_enc_of_encoded {s t : State} {v : Sample} (h : s.params.Ok) (he : encodeSample v s = .ok t) :
    exec (.enc v) s = .next t :=
  (checked_of_ok h _).trans (by rw [he, ofExcept_ok])

/-- R145, on the full sample. -/
theorem outOfBand_iff (p : Params) (v : Sample) :
    outOfBand p v = true ↔ p.bandHi < v.toNat ∨ v.toNat < p.bandLo := by
  simp [outOfBand]

/-- R145: the band check inverts the light, or leaves it. -/
theorem bandCheck_eq (s : State) (v : Sample) :
    s.bandCheck v = { s with
      bandLed := if s.params.bandHi < v.toNat ∨ v.toNat < s.params.bandLo then !s.bandLed else s.bandLed } := by
  rw [State.bandCheck]
  split
  · next hout => rw [(outOfBand_iff _ _).mpr hout, Bool.xor_true]
  · next hin => rw [Bool.eq_false_iff.mpr (mt (outOfBand_iff _ _).mp hin), Bool.xor_false]

/-- Settles O9: R144's first two steps reach the state that ENC starts from, and leave a legal `flen`. -/
theorem acqServesOneSample : Obligations.AcqServesOneSample := by
  unfold Obligations.AcqServesOneSample
  intro s v hok hpending heven hle
  obtain ⟨u, hu⟩ := encodeSample_completes (s := (s.emit .adcStart).bandCheck v) hok ⟨heven, hle⟩ v
  have henc := exec_enc_of_encoded (s := (s.emit .adcStart).bandCheck v) hok hu
  rw [bandCheck_eq] at henc
  exact ⟨u, henc, exec_acq_of_encoded hok hpending hu⟩

end Sys2Proof.Machine
end

-- The statements of 43_command_parser.md: a character, the end of a line, whole lines, and runs of the parser.
section
/-! PROOFS. R160 to R165: RXB, one equation per branch, and the value of a line as the sum of R162. -/

namespace Sys2Proof.Machine

/-! ### Lines of digits (R162) -/

theorem isDigit_iff (b : Byte) : isDigit b = true ↔ 0x30 ≤ b.toNat ∧ b.toNat ≤ 0x39 := by
  simp [isDigit]

theorem parseDec_eq_some_iff {bs : List Byte} {n : Nat} :
    parseDec bs = some n ↔ bs ≠ [] ∧ (∀ b ∈ bs, isDigit b = true) ∧ decValue bs = n := by
  simp [parseDec]

theorem Cells.readN_succ {n : Nat} (m : Cells n) (i k : Nat) :
    Cells.readN m i (k + 1) = Cells.read m i :: Cells.readN m (i + 1) k := by
  simp [Cells.readN, List.range_succ_eq_map, Nat.add_left_comm, Nat.add_comm]

/-- R162: the value of consecutive characters, each weighted by its place. -/
theorem decValue_readN (m : Memory) (i k : Nat) :
    decValue (Cells.readN m i k) =
      ∑ j ∈ Finset.range k, ((Cells.read m (i + j)).toNat - 0x30) * 10 ^ (k - 1 - j) := by
  induction k generalizing i with
  | zero => rfl
  | succ k ih =>
    rw [Cells.readN_succ, decValue, Cells.readN_length, ih, Finset.sum_range_succ', Nat.add_comm]
    congr 1
    refine Finset.sum_congr rfl fun j _ => ?_
    rw [Nat.add_right_comm, Nat.add_assoc i j 1, Nat.add_sub_cancel, Nat.sub_add_eq, Nat.sub_right_comm]

theorem parseDec_readN_eq_some_iff {m : Memory} {k n : Nat} :
    parseDec (Cells.readN m 0 k) = some n ↔
      1 ≤ k ∧ (∀ i < k, 0x30 ≤ (Cells.read m i).toNat ∧ (Cells.read m i).toNat ≤ 0x39) ∧
      n = ∑ i ∈ Finset.range k, ((Cells.read m i).toNat - 0x30) * 10 ^ (k - 1 - i) := by
  have hne : Cells.readN m 0 k ≠ [] ↔ 1 ≤ k := by
    rw [← List.length_pos_iff, Cells.readN_length, Nat.succ_le_iff]
  have hdigits : (∀ b ∈ Cells.readN m 0 k, isDigit b = true) ↔
      ∀ i < k, 0x30 ≤ (Cells.read m i).toNat ∧ (Cells.read m i).toNat ≤ 0x39 := by
    simp [Cells.readN, isDigit_iff]
  rw [parseDec_eq_some_iff, hne, hdigits, decValue_readN, eq_comm (b := n)]
  simp only [Nat.zero_add]

/-! ### What a line applies (R163, R164) -/

theorem applyLine_of_accepted {s : State} {line : List Byte} {n : Nat} (hn : parseDec line = some n)
    (hlo : s.params.rateMin ≤ n) (hhi : n ≤ s.params.rateMax) : s.applyLine line = s.applyRate n := by
  simp [State.applyLine, hn, rateAccepted, hlo, hhi]

theorem applyLine_of_rejected {s : State} {line : List Byte}
    (hrej : ∀ n, parseDec line = some n → ¬ (s.params.rateMin ≤ n ∧ n ≤ s.params.rateMax)) :
    s.applyLine line = s := by
  rcases applyLine_cases s line with heq | ⟨n, hn, hlo, hhi, -⟩
  · exact heq
  · exact absurd ⟨hlo, hhi⟩ (hrej n hn)

/-! ### RXB, one equation per branch (R160, R165) -/

theorem isTerminator_eq_false_iff (b : Byte) : isTerminator b = false ↔ b ≠ 0x0A#8 ∧ b ≠ 0x0D#8 := by
  rw [← Bool.not_eq_true, isTerminator_iff, not_or]

section Equations

variable {s : State} (h : s.params.Ok) {b : Byte}
include h

theorem exec_rxb_of_dropped (hb : isTerminator b = false) (hd : s.discard = true) :
    exec (.rxb b) s = .next (s.respond { code := .ok }) := by
  rw [exec_rxb_of_char h hb, State.lineChar, if_pos hd]

theorem exec_rxb_of_room (hb : isTerminator b = false) (hd : s.discard = false)
    (hl : s.lcur.toNat < s.params.lineCap) :
    exec (.rxb b) s = .next ((s.pushChar b).respond { code := .ok }) := by
  rw [exec_rxb_of_char h hb, State.lineChar, if_neg (by simp [hd]), if_pos hl]

theorem exec_rxb_of_full (hb : isTerminator b = false) (hd : s.discard = false)
    (hl : s.params.lineCap ≤ s.lcur.toNat) :
    exec (.rxb b) s = .next (s.overflowLine.respond { code := .ok }) := by
  rw [exec_rxb_of_char h hb, State.lineChar, if_neg (by simp [hd]), if_neg (Nat.not_lt.mpr hl)]

theorem exec_rxb_of_accepted {n : Nat} (hb : isTerminator b = true) (hd : s.discard = false)
    (hl : s.lcur.toNat ≤ s.params.lineCap)
    (hn : parseDec (Cells.readN s.lbuf 0 s.lcur.toNat) = some n)
    (hlo : s.params.rateMin ≤ n) (hhi : n ≤ s.params.rateMax) :
    exec (.rxb b) s = .next ((s.applyRate n).endLine.respond { code := .ok }) := by
  rw [exec_rxb_of_lineEnd h hb (lineEnd_of_fits hd hl), applyLine_of_accepted hn hlo hhi]

theorem exec_rxb_of_discard (hb : isTerminator b = true) (hd : s.discard = true) :
    exec (.rxb b) s = .next (s.endLine.respond { code := .ok }) :=
  exec_rxb_of_lineEnd h hb (lineEnd_of_discard hd)

theorem exec_rxb_of_rejected (hb : isTerminator b = true) (hd : s.discard = false)
    (hl : s.lcur.toNat ≤ s.params.lineCap)
    (hrej : ∀ n, parseDec (Cells.readN s.lbuf 0 s.lcur.toNat) = some n →
      ¬ (s.params.rateMin ≤ n ∧ n ≤ s.params.rateMax)) :
    exec (.rxb b) s = .next (s.endLine.respond { code := .ok }) := by
  rw [exec_rxb_of_lineEnd h hb (lineEnd_of_fits hd hl), applyLine_of_rejected hrej]

end Equations

/-! ### The obligations on one RXB or RXDONE -/

/-- Settles O22: the three branches of a character. -/
theorem rxbStoresOrDropsCharacter : Obligations.RxbStoresOrDropsCharacter := by
  unfold Obligations.RxbStoresOrDropsCharacter
  intro s b hok hwf hlf hcr
  have hb : isTerminator b = false := (isTerminator_eq_false_iff b).mpr ⟨hlf, hcr⟩
  refine ⟨exec_rxb_of_dropped hok hb, fun hd hl => ?_, exec_rxb_of_full hok hb⟩
  refine ⟨_, exec_rxb_of_room hok hb hd hl, lcur_add_one_toNat hok hl, ?_, fun a ha => ?_, rfl⟩
  · exact (Cells.read_write hwf _ _ _).trans (if_pos rfl)
  · exact (Cells.read_write hwf _ _ _).trans (if_neg ha.symm)

/-- Settles O23: the line parses to the sum of R162, and the rate and its reload value fit their registers. -/
theorem rxbAppliesAcceptedLine : Obligations.RxbAppliesAcceptedLine := by
  unfold Obligations.RxbAppliesAcceptedLine
  intro s b n hok hb hd hpos hl hdigits hn hlo hhi
  have hparse : parseDec (Cells.readN s.lbuf 0 s.lcur.toNat) = some n :=
    parseDec_readN_eq_some_iff.mpr ⟨hpos, hdigits, hn⟩
  exact ⟨_, exec_rxb_of_accepted hok ((isTerminator_iff b).mpr hb) hd hl hparse hlo hhi,
    rateWord_toNat hok hhi, reloadOf_toNat hok n, rfl⟩

/-- Settles O24: an overflowed line is not parsed, and each of the other lines has no value or one out of range. -/
theorem rxbDiscardsRejectedLine : Obligations.RxbDiscardsRejectedLine := by
  unfold Obligations.RxbDiscardsRejectedLine
  intro s b hok hb hline
  have hterm : isTerminator b = true := (isTerminator_iff b).mpr hb
  cases hd : s.discard with
  | true => exact exec_rxb_of_discard hok hterm hd
  | false =>
    obtain ⟨hl, hline⟩ := hline.resolve_left (by simp [hd])
    refine exec_rxb_of_rejected hok hterm hd hl fun n hn hrange => ?_
    obtain ⟨hpos, hdigits, hsum⟩ := parseDec_readN_eq_some_iff.mp hn
    rcases hline with hempty | ⟨i, hi, hbad⟩ | ⟨m, hm, hout⟩
    · simp [hempty] at hpos
    · have := hdigits i hi
      omega
    · omega

/-- Settles O28. -/
theorem rxdoneRearmsTransport : Obligations.RxdoneRearmsTransport := by
  unfold Obligations.RxdoneRearmsTransport
  exact ⟨fun req => decodeBus_eq_ok_iff rfl rfl, fun s hok => exec_rxdone_eq hok⟩

end Sys2Proof.Machine
end

section
/-! PROOFS. R165, R169, R170: RXBs in a row, from the characters of a line to its terminator, and runs of the parser
under the invariant. -/

namespace Sys2Proof.Machine

/-! ### The characters of a line -/

/-- `t` is `s` with only the pending line and the response written since: what the characters of a line may do. -/
def State.sameButLine (s t : State) : Prop :=
  t = { s with lbuf := t.lbuf, lcur := t.lcur, discard := t.discard, response := t.response }

namespace State.sameButLine

variable {s t u : State}

theorem refl (s : State) : s.sameButLine s := rfl

theorem trans (h : s.sameButLine t) (k : t.sameButLine u) : s.sameButLine u := by
  unfold State.sameButLine at h k
  rw [h] at k
  exact k

theorem params (h : s.sameButLine t) : t.params = s.params := by rw [h]

theorem cmdAck (h : s.sameButLine t) : t.cmdAck = s.cmdAck := by rw [h]

theorem activeReload (h : s.sameButLine t) : t.activeReload = s.activeReload := by rw [h]

theorem tcount (h : s.sameButLine t) : t.tcount = s.tcount := by rw [h]

theorem of_exec_rxb {c : Byte} (hc : isTerminator c = false) (he : exec (.rxb c) s = .next t) :
    s.sameButLine t := by
  obtain ⟨-, ⟨hterm, -⟩ | ⟨-, rfl⟩⟩ := exec_rxb_next he
  · exact absurd (hc.symm.trans hterm) Bool.false_ne_true
  · rcases lineChar_cases s c with ⟨-, heq⟩ | ⟨-, -, heq⟩ | ⟨-, -, heq⟩
    · rw [heq]
      rfl
    · rw [heq]
      rfl
    · rw [heq]
      rfl

theorem of_runAll {line : List Byte} (hline : ∀ c ∈ line, isTerminator c = false)
    (hrun : runAll (line.map .rxb) s = .next t) : s.sameButLine t := by
  induction line generalizing s with
  | nil =>
    cases hrun
    exact refl _
  | cons c line ih =>
    obtain ⟨hc, hline⟩ := List.forall_mem_cons.mp hline
    obtain ⟨u, hu, hrest⟩ := runAll_cons_next hrun
    exact (of_exec_rxb hc hu).trans (ih hline hrest)

end State.sameButLine

section Characters

variable {s : State} {line : List Byte} (h : s.params.Ok) (hline : ∀ c ∈ line, isTerminator c = false)
include h hline

/-- R165: after an overflow every character is dropped. -/
theorem runAll_rxb_of_discard (hd : s.discard = true) :
    ∃ t, runAll (line.map .rxb) s = .next t ∧ t.discard = true := by
  induction line generalizing s with
  | nil => exact ⟨s, rfl, hd⟩
  | cons c line ih =>
    obtain ⟨hc, hline⟩ := List.forall_mem_cons.mp hline
    rw [List.map_cons, runAll_cons_of_next (exec_rxb_of_dropped h hc hd)]
    exact ih (s := s.respond { code := .ok }) h hline hd

/-- R160: characters for which there is room are stored one after the other. -/
theorem runAll_rxb_of_room (hd : s.discard = false)
    (hl : s.lcur.toNat + line.length ≤ s.params.lineCap) :
    ∃ t, runAll (line.map .rxb) s = .next t ∧ t.discard = false ∧
      t.lcur.toNat = s.lcur.toNat + line.length ∧ t.lbuf = Cells.writeN s.lbuf s.lcur.toNat line := by
  induction line generalizing s with
  | nil => exact ⟨s, rfl, hd, rfl, rfl⟩
  | cons c line ih =>
    obtain ⟨hc, hline⟩ := List.forall_mem_cons.mp hline
    rw [List.length_cons, Nat.add_comm line.length, ← Nat.add_assoc] at hl ⊢
    have hroom : s.lcur.toNat < s.params.lineCap := by omega
    have hcur : (s.lcur + 1#6).toNat = s.lcur.toNat + 1 := lcur_add_one_toNat h hroom
    rw [List.map_cons, runAll_cons_of_next (exec_rxb_of_room h hc hd hroom)]
    simpa [hcur, Cells.writeN_cons] using
      ih (s := (s.pushChar c).respond { code := .ok }) h hline hd (by simpa [hcur] using hl)

/-- R165: characters of which one finds no room leave the line overflowed. -/
theorem runAll_rxb_of_overflow (hd : s.discard = false) (hl : s.lcur.toNat ≤ s.params.lineCap)
    (hlong : s.params.lineCap < s.lcur.toNat + line.length) :
    ∃ t, runAll (line.map .rxb) s = .next t ∧ t.discard = true := by
  induction line generalizing s with
  | nil => exact absurd hlong (Nat.not_lt.mpr hl)
  | cons c line ih =>
    obtain ⟨hc, hline⟩ := List.forall_mem_cons.mp hline
    rw [List.map_cons]
    by_cases hroom : s.lcur.toNat < s.params.lineCap
    · have hcur : (s.lcur + 1#6).toNat = s.lcur.toNat + 1 := lcur_add_one_toNat h hroom
      rw [List.length_cons] at hlong
      rw [runAll_cons_of_next (exec_rxb_of_room h hc hd hroom)]
      exact ih (s := (s.pushChar c).respond { code := .ok }) h hline hd (hcur.trans_le hroom)
        (by simp [hcur]; omega)
    · rw [runAll_cons_of_next (exec_rxb_of_full h hc hd (Nat.not_lt.mp hroom))]
      exact runAll_rxb_of_discard (s := s.overflowLine.respond { code := .ok }) h hline rfl

end Characters

/-- Settles O26: the characters overflow the line, and the terminator of an overflowed line applies nothing. -/
theorem overflowedLineAppliesNothing : Obligations.OverflowedLineAppliesNothing := by
  unfold Obligations.OverflowedLineAppliesNothing
  intro s line b hok hb hd hl hline hlong
  have hchars : ∀ c ∈ line, isTerminator c = false := fun c hc => (isTerminator_eq_false_iff c).mpr (hline c hc)
  obtain ⟨t, hrun, hdt⟩ := runAll_rxb_of_overflow hok hchars hd hl hlong
  have hsame : s.sameButLine t := .of_runAll hchars hrun
  have hend : exec (.rxb b) t = .next (t.endLine.respond { code := .ok }) :=
    exec_rxb_of_discard (hsame.params ▸ hok) ((isTerminator_iff b).mpr hb) hdt
  refine ⟨_, (runAll_append_of_next hrun).trans (runAll_cons_of_next hend), ?_⟩
  rw [hsame]
  rfl

/-! ### The decimal digits of a rate (R162, R169) -/

/-- The character of a digit, as R169 sends it. -/
def digitChar (d : Nat) : Byte := BitVec.ofNat 8 (0x30 + d)

theorem digitChar_toNat {d : Nat} (hd : d < 10) : (digitChar d).toNat = 0x30 + d := by
  rw [digitChar, BitVec.toNat_ofNat]
  omega

theorem isDigit_digitChar {d : Nat} (hd : d < 10) : isDigit (digitChar d) = true := by
  rw [isDigit_iff, digitChar_toNat hd]
  omega

theorem isTerminator_eq_false_of_isDigit {b : Byte} (hb : isDigit b = true) : isTerminator b = false := by
  rw [isDigit_iff] at hb
  rw [isTerminator_eq_false_iff]
  bv_omega

/-- One more digit behind: the value so far moves up a place. -/
theorem decValue_concat (bs : List Byte) (c : Byte) :
    decValue (bs ++ [c]) = decValue bs * 10 + (c.toNat - 0x30) := by
  induction bs with
  | nil => simp [decValue]
  | cons b bs ih =>
    rw [List.cons_append, decValue, ih, decValue, List.length_append, List.length_singleton, pow_succ]
    ring

/-- Digits sent most significant first are read back as the number they are the digits of. -/
theorem decValue_digitChars {ds : List Nat} (hds : ∀ d ∈ ds, d < 10) :
    decValue (ds.reverse.map digitChar) = Nat.ofDigits 10 ds := by
  induction ds with
  | nil => rfl
  | cons d ds ih =>
    obtain ⟨hd, hds⟩ := List.forall_mem_cons.mp hds
    rw [List.reverse_cons, List.map_append, List.map_singleton, decValue_concat, ih hds, digitChar_toNat hd,
      Nat.add_sub_cancel_left, Nat.ofDigits_cons]
    ring

/-- The line of a positive number. -/
def decimalLine (n : Nat) : List Byte := (Nat.digits 10 n).reverse.map digitChar

theorem isDigit_of_mem_decimalLine {n : Nat} {b : Byte} (hb : b ∈ decimalLine n) : isDigit b = true := by
  obtain ⟨d, hd, rfl⟩ := List.mem_map.mp hb
  exact isDigit_digitChar (Nat.digits_lt_base (by norm_num) (List.mem_reverse.mp hd))

theorem parseDec_decimalLine {n : Nat} (hn : 0 < n) : parseDec (decimalLine n) = some n := by
  refine parseDec_eq_some_iff.mpr ⟨?_, fun b => isDigit_of_mem_decimalLine, ?_⟩
  · simpa [decimalLine, Nat.digits_ne_nil_iff_ne_zero] using hn.ne'
  · rw [decimalLine, decValue_digitChars fun d hd => Nat.digits_lt_base (by norm_num) hd, Nat.ofDigits_digits]

/-- Settles O25: the digits fill the empty line with the decimal line of `n`, and the terminator applies it. -/
theorem rateCommandSetsRate : Obligations.RateCommandSetsRate := by
  unfold Obligations.RateCommandSetsRate
  intro s n b hok hwf hb hd hcur hlo hhi hfits
  have hstart : s.lcur.toNat = 0 := congrArg BitVec.toNat hcur
  have hlen : (decimalLine n).length = (Nat.digits 10 n).length := by simp [decimalLine]
  have hchars : ∀ c ∈ decimalLine n, isTerminator c = false :=
    fun c hc => isTerminator_eq_false_of_isDigit (isDigit_of_mem_decimalLine hc)
  obtain ⟨t, hrun, hdt, hcurt, hbuft⟩ := runAll_rxb_of_room hok hchars hd (by omega)
  have hsame : s.sameButLine t := .of_runAll hchars hrun
  rw [hstart, Nat.zero_add] at hcurt
  rw [hstart] at hbuft
  have hpar : t.params = s.params := hsame.params
  have hread : Cells.readN t.lbuf 0 t.lcur.toNat = decimalLine n := by
    obtain ⟨-, -, -, hlbuf⟩ := hwf
    rw [hbuft]
    exact readN_writeN_self hlbuf 0 _ hcurt.symm
  have hpos : 0 < n := (Params.ok_rate hok).1.trans hlo
  have hend : exec (.rxb b) t = .next ((t.applyRate n).endLine.respond { code := .ok }) :=
    exec_rxb_of_accepted (hpar ▸ hok) ((isTerminator_iff b).mpr hb) hdt (by rw [hpar]; omega)
      (hread ▸ parseDec_decimalLine hpos) (hpar ▸ hlo) (hpar ▸ hhi)
  rw [decimalLine, List.map_map] at hrun
  have hreload : (reloadOf t.params n).toNat = s.params.timerClkHz / n - 1 := by rw [hpar, reloadOf_toNat hok]
  exact ⟨_, (runAll_append_of_next hrun).trans (runAll_cons_of_next hend), rateWord_toNat hok hhi, hreload,
    congrArg (!·) hsame.cmdAck, rfl, rfl, hsame.activeReload, hsame.tcount⟩

/-! ### Runs under the invariant (R12, R52, R170) -/

/-- Bus requests in a row complete, keep the invariant and leave the parameters alone. -/
theorem runAll_completes_of_bus {s : State} {l : List Instr} (hinv : s.Inv) (hl : ∀ i ∈ l, i.path = .bus) :
    ∃ t, runAll l s = .next t ∧ t.Inv ∧ t.params = s.params := by
  induction l generalizing s with
  | nil => exact ⟨s, rfl, hinv, rfl⟩
  | cons i l ih =>
    obtain ⟨hi, hl⟩ := List.forall_mem_cons.mp hl
    obtain ⟨u, hu⟩ := exec_completes_of_bus hinv hi
    obtain ⟨t, hrun, hinvt, hpar⟩ := ih (inv_of_exec_of_bus hinv hi hu) hl
    exact ⟨t, (runAll_cons_of_next hu).trans hrun, hinvt, hpar.trans (exec_actsAs hu).writes.params⟩

/-- Settles O27: R60's bound of `lbuf` and R52 (iii) are parts of the invariant. -/
theorem parserNeverFaults : Obligations.ParserNeverFaults := by
  unfold Obligations.ParserNeverFaults
  intro s l hinv hl
  have hbus : ∀ i ∈ l, i.path = .bus := by
    intro i hi
    obtain rfl | ⟨b, rfl⟩ := hl i hi <;> rfl
  obtain ⟨t, hrun, ⟨-, -, ⟨-, -, -, hlbuf⟩, -, -, -, ⟨hlo, hhi, -⟩, -⟩, hpar⟩ :=
    runAll_completes_of_bus hinv hbus
  exact ⟨t, hrun, hlbuf, hpar, hlo, hhi⟩

end Sys2Proof.Machine
end

-- The statements of 44_status_control.md: the word of NOP and its answer, the status selectors and their values.
section
/-! PROOFS. R180 to R182: among the requests of the bus only NOP has opcode 0, and STAT answers the word of the
one status register that its selector numbers. -/

namespace Sys2Proof

/-- R84, R85: opcode 0 is NOP's alone. -/
theorem Instr.eq_nop_of_opcode {i : Instr} (h : i.opcode = 0x0#4) : i = .nop := by
  cases i with
  | nop => rfl
  | tick | acq _ | pop | rxb _ | rxdone | stat _ | rbWrite _ | enc _ => simp [Instr.opcode] at h

theorem decodeBus_eq_nop_of_opField {req : Word} {i : Instr} (hop : opField req = 0x0#4)
    (hd : decodeBus req = .ok i) : i = .nop := by
  obtain ⟨-, rfl⟩ := encode_of_decodeBus hd
  exact Instr.eq_nop_of_opcode (by rwa [opField_encode] at hop)

end Sys2Proof

namespace Sys2Proof.Machine

/-! ### NOP (R180) -/

/-- Settles O1: a word with op 0x0 decodes to NOP or to an error, and NOP has one word. -/
theorem nopOnlyResponds : Obligations.NopOnlyResponds := by
  unfold Obligations.NopOnlyResponds
  have hword (req : Word) : decodeBus req = .ok .nop ↔ req = 0#32 := decodeBus_eq_ok_iff rfl rfl
  refine ⟨hword, fun req hop hne => ?_, fun s hok => exec_nop_eq hok⟩
  cases hd : decodeBus req with
  | error e => exact ⟨e, rfl⟩
  | ok i =>
    obtain rfl := decodeBus_eq_nop_of_opField (opField_eq_ofNat ((opField_toNat req).trans hop)) hd
    exact absurd ((hword req).mp hd) hne

/-! ### The status selectors (R182) -/

/-- The number of a selector in the table of R182. -/
def Selector.number : Selector → BitVec 4
  | .count => 0#4
  | .widx => 1#4
  | .ridx => 2#4
  | .lost => 3#4
  | .rate => 4#4
  | .reload => 5#4
  | .arel => 6#4
  | .tcount => 7#4
  | .flags => 8#4
  | .lcur => 9#4
  | .flen => 10#4

@[simp] theorem selectorOf_number (x : Selector) : selectorOf x.number = some x := by
  cases x <;> rfl

theorem selectorOf_eq_none_iff (sel : BitVec 4) : selectorOf sel = none ↔ 11 ≤ sel.toNat := by
  revert sel
  decide

theorem exists_selectorOf {sel : BitVec 4} (h : sel.toNat ≤ 10) : ∃ x, selectorOf sel = some x :=
  Option.ne_none_iff_exists'.mp (mt (selectorOf_eq_none_iff sel).mp (by omega))

/-- Settles O3. -/
theorem statIllegalSelector : Obligations.StatIllegalSelector := by
  unfold Obligations.StatIllegalSelector
  intro s sel hok hsel
  exact exec_stat_of_no_selector hok ((selectorOf_eq_none_iff sel).mpr hsel)

/-! ### The status values as numbers (R182) -/

/-- `count` of two W-bit cursors, with the difference of R34 written out. -/
theorem count_eq_of_cursorsOk {s : State} (hc : s.cursorsOk) :
    s.count = min ((s.w + 2 ^ s.params.cursorW - s.r) % 2 ^ s.params.cursorW) s.params.ringSlots := by
  rw [State.count, State.distance, subW_of_lt _ hc.2]

theorem countWord_toNat {s : State} (h : s.count < 2 ^ 32) : s.countWord.toNat = s.count := by
  rw [State.countWord, if_pos h, BitVec.toNat_ofNat, Nat.mod_eq_of_lt h]

/-- R53: the weights of the four flags. -/
theorem flagsWord_toNat (s : State) :
    s.flagsWord.toNat =
      s.irqPending.toNat + 2 * s.bandLed.toNat + 4 * s.cmdAck.toNat + 8 * s.discard.toNat := by
  simp only [State.flagsWord, toNat_append_add, BitVec.toNat_ofBool, BitVec.toNat_ofNat]
  omega

/-- Settles O2: the selector numbers one row of R182's table, and each row's value is that register's. -/
theorem statReturnsSelectedValue : Obligations.StatReturnsSelectedValue := by
  unfold Obligations.StatReturnsSelectedValue
  intro s sel hok hsel
  obtain ⟨x, hx⟩ := exists_selectorOf hsel
  have row (y : Selector) (hy : sel = y.number) : s.statusValue x = s.statusValue y := by
    rw [hy, selectorOf_number, Option.some_inj] at hx
    rw [hx]
  refine ⟨s.statusValue x, exec_stat_of_selector hok hx, ?count, ?widx, ?ridx, row .lost, ?rate, row .reload,
    row .arel, row .tcount, ?flags, ?lcur, ?flen⟩
  case count =>
    intro hy hc hfit
    rw [← count_eq_of_cursorsOk hc] at hfit ⊢
    rw [row .count hy]
    exact countWord_toNat hfit
  case widx => exact fun hy => row .widx hy ▸ BitVec.toNat_ofNat _ _
  case ridx => exact fun hy => row .ridx hy ▸ BitVec.toNat_ofNat _ _
  case rate => exact fun hy => row .rate hy ▸ BitVec.toNat_setWidth_of_le (by decide)
  case flags => exact fun hy => row .flags hy ▸ flagsWord_toNat s
  case lcur => exact fun hy => row .lcur hy ▸ BitVec.toNat_setWidth_of_le (by decide)
  case flen => exact fun hy => row .flen hy ▸ BitVec.toNat_setWidth_of_le (by decide)

end Sys2Proof.Machine
end

-- The statements of 60_exceptions.md: illegal words, error responses, model faults, and the order of one clock cycle.
section
/-! PROOFS. R82, R201: a word that decodes has the opcode and the operand of its request, so a word with other fields
is ILLEGAL. -/

namespace Sys2Proof

/-- The operand field of a request's word, as a number (R83). -/
def Instr.operand : Instr → Nat
  | .nop => 0
  | .tick => 0
  | .acq v => v.toNat
  | .pop => 0
  | .rxb b => b.toNat
  | .rxdone => 0
  | .stat sel => sel.toNat
  | .rbWrite len => len.toNat
  | .enc v => v.toNat

theorem encode_toNat_div (i : Instr) : (encode i).toNat / 2 ^ 28 = i.opcode.toNat := by
  rw [← opField_toNat, opField_encode]

/-- R82: below the opcode a word with zero reserved bits holds its operand alone. -/
theorem toNat_fields_mod {r n : Nat} (op : BitVec 4) (v : BitVec n) :
    (op ++ 0#r ++ v).toNat % 2 ^ (r + n) = v.toNat := by
  have hv : v.toNat < 2 ^ (r + n) := v.isLt.trans_le (Nat.pow_le_pow_right (by decide) (Nat.le_add_left n r))
  rw [toNat_append_add, toNat_append_add, BitVec.toNat_zero, Nat.add_zero, Nat.mul_assoc, ← Nat.pow_add,
    Nat.mul_add_mod_self_right, Nat.mod_eq_of_lt hv]

theorem encode_toNat_mod (i : Instr) : (encode i).toNat % 2 ^ 28 = i.operand := by
  cases i with
  | nop | tick | pop | rxdone => rfl
  | acq v | enc v => exact toNat_fields_mod (r := 12) _ v
  | rxb b => exact toNat_fields_mod (r := 20) _ b
  | stat sel => exact toNat_fields_mod (r := 24) _ sel
  | rbWrite len => exact toNat_fields_mod (r := 21) _ len

end Sys2Proof

namespace Sys2Proof.Machine

/-- Settles O32: every request of the bus has an opcode and an operand outside the clauses, so the word decodes to
none. -/
theorem illegalBusWordsAreAnswered : Obligations.IllegalBusWordsAreAnswered := by
  unfold Obligations.IllegalBusWordsAreAnswered
  intro s rest req op low hok hi hop hlow hfields
  cases hd : decodeBus req with
  | error e => exact ⟨_, step_of_illegal hok hi hd, rfl, rfl⟩
  | ok i =>
    have hpath := decodeBus_path hd
    obtain ⟨hwf, rfl⟩ := encode_of_decodeBus hd
    rw [encode_toNat_div] at hop
    rw [encode_toNat_mod] at hlow
    subst hop hlow
    cases i with
    | nop | tick | pop | rxdone => simp [Instr.opcode, Instr.operand] at hfields
    | acq v =>
      have : 2 ^ 16 ≤ v.toNat := by simpa [Instr.opcode, Instr.operand] using hfields
      exact absurd v.isLt (by omega)
    | rxb b =>
      have : 2 ^ 8 ≤ b.toNat := by simpa [Instr.opcode, Instr.operand] using hfields
      exact absurd b.isLt (by omega)
    | stat sel =>
      have : 11 ≤ sel.toNat := by simpa [Instr.opcode, Instr.operand] using hfields
      have : sel.toNat ≤ 10 := of_decide_eq_true hwf
      omega
    | rbWrite _ | enc _ => cases hpath

end Sys2Proof.Machine
end

section
/-! PROOFS. R204: the responses of each request, the two that report an error apart. -/

namespace Sys2Proof.Machine

/-- The response reports an error (R200). -/
abbrev Response.isError (resp : Response) : Prop := resp.code = .errNotPending ∨ resp.code = .errIllegal

theorem encodeSample_response {s t : State} {v : Sample} (h : s.params.Ok) (he : encodeSample v s = .ok t) :
    t.response = s.response := by
  obtain ⟨-, -, ⟨-, rfl⟩ | ⟨-, rfl⟩⟩ := encodeSample_ok h he
  · simp
  · simp

/-- R85: the requests of the internal path answer nothing of their own. -/
theorem exec_response_of_internal {i : Instr} {s t : State} (hi : i.path = .internal) (he : exec i s = .next t) :
    t.response = s.response := by
  cases i with
  | rbWrite len =>
    obtain ⟨-, -, rfl⟩ := exec_rbWrite_next he
    simp
  | enc v =>
    obtain ⟨hok, hu⟩ := exec_enc_next he
    exact encodeSample_response hok hu
  | nop | tick | acq _ | pop | rxb _ | rxdone | stat _ => cases hi

/-- Of the bus requests ACQ with no expiry pending and STAT of a selector that names no register report an error. -/
theorem exec_error_of_bus {i : Instr} {s t : State} {resp : Response} (hi : i.path = .bus)
    (he : exec i s = .next t) (hr : t.response = some resp) (herr : resp.isError) :
    (∃ v, i = .acq v ∧ s.irqPending = false ∧ t = s.respond { code := .errNotPending }) ∨
      ∃ sel, i = .stat sel ∧ selectorOf sel = none := by
  have other {u : State} {answer : Response} (hne : ¬ answer.isError) : t ≠ u.respond answer := by
    rintro rfl
    cases hr
    exact hne herr
  cases i with
  | nop => exact absurd (exec_nop_next he).2 (other (by decide))
  | tick =>
    obtain ⟨-, ⟨-, ht⟩ | ⟨-, -, ht⟩⟩ := exec_tick_next he
    · exact absurd ht (other (by decide))
    · exact absurd ht (other (by decide))
  | acq v =>
    obtain ⟨-, ⟨hp, ht⟩ | ⟨-, u, -, ht⟩⟩ := exec_acq_next he
    · exact .inl ⟨v, rfl, hp, ht⟩
    · exact absurd ht (other (by decide))
  | pop =>
    obtain ⟨-, ⟨-, ht⟩ | ⟨-, -, ht⟩⟩ := exec_pop_next he
    · exact absurd ht (other (by decide))
    · exact absurd ht (other (by simp [Response.isError, State.frameResponse]))
  | rxb b =>
    obtain ⟨-, ⟨-, u, -, ht⟩ | ⟨-, ht⟩⟩ := exec_rxb_next he
    · exact absurd ht (other (by decide))
    · exact absurd ht (other (by decide))
  | rxdone => exact absurd (exec_rxdone_next he).2 (other (by decide))
  | stat sel =>
    obtain ⟨-, ⟨x, -, ht⟩ | ⟨hx, -⟩⟩ := exec_stat_next he
    · exact absurd ht (other (by simp [Response.isError]))
    · exact .inr ⟨sel, rfl, hx⟩
  | rbWrite _ | enc _ => cases hi

/-- Settles O38: an internal request leaves no response, and a well-formed STAT names a register. -/
theorem onlyAcqReportsError : Obligations.OnlyAcqReportsError := by
  unfold Obligations.OnlyAcqReportsError
  intro i s t resp hwf hnone he hr herr
  cases hpath : i.path with
  | internal =>
    rw [exec_response_of_internal hpath he, hnone] at hr
    cases hr
  | bus =>
    obtain ⟨v, rfl, hp, rfl⟩ | ⟨sel, rfl, hx⟩ := exec_error_of_bus hpath he hr herr
    · exact ⟨⟨v, rfl⟩, (Option.some.inj hr).symm, hp, rfl⟩
    · have hlow : sel.toNat ≤ 10 := of_decide_eq_true hwf
      have hhigh := (selectorOf_eq_none_iff sel).mp hx
      omega

/-- Settles O8. -/
theorem acqWithoutPendingExpiry : Obligations.AcqWithoutPendingExpiry := by
  unfold Obligations.AcqWithoutPendingExpiry
  intro s v hok hp
  exact exec_acq_of_not_pending hok hp

end Sys2Proof.Machine
end

section
/-! PROOFS. R206: going through the places in order and taking the words of each sorts the words stably. -/

namespace Sys2Proof.Machine

/-! ### Sorting by a rank below a bound -/

section Buckets

variable {α : Type} (rank : α → Nat) (l : List α)

/-- The elements of `l` of rank 0, then those of rank 1, and so on below `n`. -/
def buckets (n : Nat) : List α := (List.range n).flatMap fun k => l.filter (rank · == k)

theorem buckets_succ (n : Nat) : buckets rank l (n + 1) = buckets rank l n ++ l.filter (rank · == n) := by
  simp [buckets, List.range_succ]

theorem filter_filter_rank (j k : Nat) :
    (l.filter (rank · == j)).filter (rank · == k) = if j = k then l.filter (rank · == k) else [] := by
  split
  · next h => simp [h, List.filter_filter]
  · next h =>
    rw [List.filter_filter, List.filter_eq_nil_iff]
    intro a _ ha
    simp only [Bool.and_eq_true, beq_iff_eq] at ha
    exact h (ha.2.symm.trans ha.1)

/-- The elements of one rank are those of `l`, in the order they have there. -/
theorem filter_buckets (n k : Nat) :
    (buckets rank l n).filter (rank · == k) = if k < n then l.filter (rank · == k) else [] := by
  induction n with
  | zero => simp [buckets]
  | succ n ih =>
    rw [buckets_succ, List.filter_append, ih, filter_filter_rank]
    by_cases hk : n = k
    · simp [hk]
    · have hlt : k < n + 1 ↔ k < n := by omega
      simp [hk, hlt]

/-- Two elements of one bucket have its rank, and the ranks of the buckets rise. -/
theorem pairwise_buckets (n : Nat) : (buckets rank l n).Pairwise (rank · ≤ rank ·) := by
  have hrank {k : Nat} {a : α} (ha : a ∈ l.filter (rank · == k)) : rank a = k :=
    beq_iff_eq.mp (List.mem_filter.mp ha).2
  rw [buckets, List.pairwise_flatMap]
  refine ⟨fun k _ => List.pairwise_of_forall_mem_list fun a ha b hb => ?_, List.pairwise_lt_range.imp ?_⟩
  · exact ((hrank ha).trans (hrank hb).symm).le
  · intro j k hjk a ha b hb
    rw [hrank ha, hrank hb]
    exact hjk.le

/-- Equal elements have equal ranks, so each element is counted in its own bucket. -/
theorem perm_buckets [DecidableEq α] {n : Nat} (h : ∀ a, rank a < n) : (buckets rank l n).Perm l := by
  rw [List.perm_iff_count]
  intro a
  have hcount (m : List α) : (m.filter (rank · == rank a)).count a = m.count a :=
    List.count_filter (beq_self_eq_true _)
  calc (buckets rank l n).count a
      = ((buckets rank l n).filter (rank · == rank a)).count a := (hcount _).symm
    _ = (l.filter (rank · == rank a)).count a := by rw [filter_buckets, if_pos (h a)]
    _ = l.count a := hcount l

end Buckets

/-! ### The places of R206 -/

theorem commitRank_lt (req : Word) : commitRank req < 7 := by
  unfold commitRank
  split <;> decide

theorem commitOrder_eq (reqs : List Word) : commitOrder reqs = buckets commitRank reqs 7 := rfl

theorem filter_commitOrder (reqs : List Word) (k : Nat) :
    (commitOrder reqs).filter (commitRank · == k) = reqs.filter (commitRank · == k) := by
  rw [commitOrder_eq, filter_buckets]
  split
  · rfl
  · next hk =>
    refine (List.filter_eq_nil_iff.mpr fun req _ hreq => hk ?_).symm
    exact beq_iff_eq.mp hreq ▸ commitRank_lt req

/-- Settles O39: the places are the table of `commitRank`, and the order is that of the buckets. -/
theorem commitOrderSorts : Obligations.CommitOrderSorts := by
  unfold Obligations.CommitOrderSorts
  refine ⟨fun req => ?_, fun reqs => ⟨perm_buckets _ _ commitRank_lt, pairwise_buckets _ _ _,
    filter_commitOrder reqs⟩⟩
  refine ⟨fun h => ?_, fun _ h => ?_, fun h => ?_, fun _ h => ?_, fun h => ?_, fun _ h => ?_, fun h => ?_,
    fun _ h => ?_⟩ <;> simp only [commitRank, h]

end Sys2Proof.Machine
end

section
/-! PROOFS. R203: the one fault of an illegal parameter set, and none in a run from reset under a legal one. -/

namespace Sys2Proof.Machine

theorem exec_of_not_ok {s : State} (h : ¬ s.params.Ok) (i : Instr) : exec i s = .fault .badConfig := by
  cases i with
  | nop | tick | acq _ | pop | rxb _ | rxdone | stat _ | rbWrite _ | enc _ => exact checked_of_not_ok h _

theorem step_of_not_ok {s : State} (h : ¬ s.params.Ok) : step s = .fault .badConfig := by
  unfold step
  split
  · exact checked_of_not_ok h _
  · next word rest _ =>
    have haccept : ¬ (s.accept rest).params.Ok := h
    split
    · exact exec_of_not_ok haccept _
    · exact checked_of_not_ok haccept _
  · exact checked_of_not_ok h _

/-- Settles O40. -/
theorem badConfigFaults : Obligations.BadConfigFaults := by
  unfold Obligations.BadConfigFaults
  intro s h
  exact ⟨step_of_not_ok h, exec_of_not_ok h⟩

/-- R52, R203: from a state with the invariant a run of any length completes, and keeps the invariant. -/
theorem run_of_inv {s : State} (hinv : s.Inv) (k : Nat) :
    ∃ t : State, Host.Core.run Sys2Proof.core k s = .next t ∧ t.Inv := by
  induction k generalizing s with
  | zero => exact ⟨s, core_run_zero s, hinv⟩
  | succ k ih =>
    obtain ⟨u, hu⟩ := stepCompletesUnderInvariant s hinv
    obtain ⟨t, ht, htinv⟩ := ih (stepKeepsInvariant s u hinv hu)
    exact ⟨t, (core_run_succ_of_next k hu).trans ht, htinv⟩

/-- Settles O47: the reset value has the invariant, whatever is presented. -/
theorem runFromResetNeverFaults : Obligations.RunFromResetNeverFaults := by
  unfold Obligations.RunFromResetNeverFaults
  intro p ins k hok
  obtain ⟨t, ht, -⟩ := run_of_inv (inv_resetOf hok ins) k
  exact ⟨t, ht⟩

end Sys2Proof.Machine
end

-- The statements of 70_reset_and_hazards.md: the reset input, and the invariant right after reset.
section
/-! PROOFS. R220: reset gives every register its reset value, with the rate and its reload value within their
registers, and so a state with the invariant. -/

namespace Sys2Proof.Machine

/-- Settles O42: the reset rate and its reload value, unlike the zeros, fit their registers only by R6. -/
theorem resetInputRestoresResetValues : Obligations.ResetInputRestoresResetValues := by
  unfold Obligations.ResetInputRestoresResetValues
  intro s rest hok hi
  have hrate : (BitVec.ofNat 16 s.params.resetRate).toNat = s.params.resetRate :=
    rateWord_toNat hok (Params.ok_resetRate hok).2
  have hreload : (reloadOf s.params s.params.resetRate).toNat =
      s.params.timerClkHz / s.params.resetRate - 1 := reloadOf_toNat hok _
  exact ⟨_, step_of_reset hok hi, rfl, rfl, rfl, rfl, rfl, hrate, hreload, rfl, rfl, rfl, rfl, rfl, rfl, rfl, rfl⟩

/-- Settles O43: with nothing presented. -/
theorem resetSatisfiesInvariant : Obligations.ResetSatisfiesInvariant := by
  unfold Obligations.ResetSatisfiesInvariant
  intro p hok
  exact inv_resetOf hok []

/-- The parameters chosen for `State.reset` (log 2) are legal (R6). -/
theorem configParams_ok : Config.params.Ok := by decide

/-- Settles O44: an instance of O43, the chosen parameters being legal. -/
theorem stateResetSatisfiesInvariant : Obligations.StateResetSatisfiesInvariant := by
  unfold Obligations.StateResetSatisfiesInvariant
  exact ⟨resetSatisfiesInvariant Config.params configParams_ok, rfl⟩

end Sys2Proof.Machine
end
